-- ==== Sys2Proof/Word.lean ====
section
/-! DEFINITION. The word types of the debit CFG block (spec/00_scope.md R8). -/

namespace Sys2Proof

/-- A 32-bit input word, register value or FAR word (R8). -/
abbrev Word := BitVec 32

/-- One byte of the input buffer (spec/20_memory.md R60). -/
abbrev Byte := BitVec 8

end Sys2Proof
end

