-- ==== Sys2Proof/Syntax.lean ====
section
/-! DEFINITION. The words of the packet stream as an instruction type: one constructor per row of
spec/opcode_table.json. A word's class depends on the state it is read in (spec/30_encoding.md R80);
the operands kept are every bit the row leaves free, so that a word can be written back whole. -/

namespace Sys2Proof

/-- The fifteen configuration registers, in address order (spec/10_state.md R22). -/
inductive Reg where
  | crc | far | fdri | fdro | cmd | ctl | mask | stat | lout | cor | mfwr | flr | key | cbc | idcode
  deriving DecidableEq, Repr

/-- The read/write flag of a Type-1 header (spec/30_encoding.md R85). -/
inductive PacketOp where
  | read | write
  deriving DecidableEq, Repr

/-- What a word is read as (R80): the class is chosen by the state, then by the bits.
`command` is the reading of a CMD value by the dispatch hook (spec/43_register_writes.md R200). -/
inductive WordContext where
  | unsynced
  | control
  | data (r : Reg)
  | autoCrc
  | command
  deriving DecidableEq, Repr

/-- One constructor per row of the opcode table. -/
inductive Instr where
  /-- SYNC. Unsynced: the sync word (R161). -/
  | sync
  /-- SCAN. Unsynced: any word but the sync word, skipped (R161). -/
  | scan (w : Word)
  /-- NOOP. Type-1 header with op 00; its other 27 bits are ignored (R164). -/
  | noop (ignored : BitVec 27)
  /-- T1W_CRC. Type-1 WRITE header naming CRC (R165). -/
  | t1wCrc (count : BitVec 11)
  /-- T1W_FAR. Type-1 WRITE header naming FAR (R165). -/
  | t1wFar (count : BitVec 11)
  /-- T1W_FDRI. Type-1 WRITE header naming FDRI (R165). -/
  | t1wFdri (count : BitVec 11)
  /-- T1W_FDRO. Type-1 WRITE header naming FDRO (R165). -/
  | t1wFdro (count : BitVec 11)
  /-- T1W_CMD. Type-1 WRITE header naming CMD (R165). -/
  | t1wCmd (count : BitVec 11)
  /-- T1W_CTL. Type-1 WRITE header naming CTL (R165). -/
  | t1wCtl (count : BitVec 11)
  /-- T1W_MASK. Type-1 WRITE header naming MASK (R165). -/
  | t1wMask (count : BitVec 11)
  /-- T1W_STAT. Type-1 WRITE header naming STAT (R165). -/
  | t1wStat (count : BitVec 11)
  /-- T1W_LOUT. Type-1 WRITE header naming LOUT (R165). -/
  | t1wLout (count : BitVec 11)
  /-- T1W_COR. Type-1 WRITE header naming COR (R165). -/
  | t1wCor (count : BitVec 11)
  /-- T1W_MFWR. Type-1 WRITE header naming MFWR (R165). -/
  | t1wMfwr (count : BitVec 11)
  /-- T1W_FLR. Type-1 WRITE header naming FLR (R165). -/
  | t1wFlr (count : BitVec 11)
  /-- T1W_KEY. Type-1 WRITE header naming KEY (R165). -/
  | t1wKey (count : BitVec 11)
  /-- T1W_CBC. Type-1 WRITE header naming CBC (R165). -/
  | t1wCbc (count : BitVec 11)
  /-- T1W_IDCODE. Type-1 WRITE header naming IDCODE (R165). -/
  | t1wIdcode (count : BitVec 11)
  /-- T1R_CRC. Type-1 READ header naming CRC (R166). -/
  | t1rCrc (count : BitVec 11)
  /-- T1R_FAR. Type-1 READ header naming FAR (R166). -/
  | t1rFar (count : BitVec 11)
  /-- T1R_FDRI. Type-1 READ header naming FDRI (R166). -/
  | t1rFdri (count : BitVec 11)
  /-- T1R_FDRO. Type-1 READ header naming FDRO (R166). -/
  | t1rFdro (count : BitVec 11)
  /-- T1R_CMD. Type-1 READ header naming CMD (R166). -/
  | t1rCmd (count : BitVec 11)
  /-- T1R_CTL. Type-1 READ header naming CTL (R166). -/
  | t1rCtl (count : BitVec 11)
  /-- T1R_MASK. Type-1 READ header naming MASK (R166). -/
  | t1rMask (count : BitVec 11)
  /-- T1R_STAT. Type-1 READ header naming STAT (R166). -/
  | t1rStat (count : BitVec 11)
  /-- T1R_LOUT. Type-1 READ header naming LOUT (R166). -/
  | t1rLout (count : BitVec 11)
  /-- T1R_COR. Type-1 READ header naming COR (R166). -/
  | t1rCor (count : BitVec 11)
  /-- T1R_MFWR. Type-1 READ header naming MFWR (R166). -/
  | t1rMfwr (count : BitVec 11)
  /-- T1R_FLR. Type-1 READ header naming FLR (R166). -/
  | t1rFlr (count : BitVec 11)
  /-- T1R_KEY. Type-1 READ header naming KEY (R166). -/
  | t1rKey (count : BitVec 11)
  /-- T1R_CBC. Type-1 READ header naming CBC (R166). -/
  | t1rCbc (count : BitVec 11)
  /-- T1R_IDCODE. Type-1 READ header naming IDCODE (R166). -/
  | t1rIdcode (count : BitVec 11)
  /-- T2. Type-2 header; the op field is ignored (R167, R89). -/
  | t2 (op : BitVec 2) (count : BitVec 27)
  /-- ILLEGAL_T1_OP11. Type-1 header with op 11 (R168). -/
  | illegalT1Op11 (rest : BitVec 27)
  /-- ILLEGAL_T1R_FIELDS. Type-1 READ header that fails a check of R86 (R168). -/
  | illegalT1rFields (addrHi : BitVec 9) (reg : BitVec 5) (rsv : BitVec 2) (count : BitVec 11)
  /-- ILLEGAL_T1W_FIELDS. Type-1 WRITE header that fails a check of R86 (R168). -/
  | illegalT1wFields (addrHi : BitVec 9) (reg : BitVec 5) (rsv : BitVec 2) (count : BitVec 11)
  /-- ILLEGAL_TYPE0. Header of type 000 (R168). -/
  | illegalType0 (rest : BitVec 29)
  /-- ILLEGAL_TYPE3. Header of type 011 (R168). -/
  | illegalType3 (rest : BitVec 29)
  /-- ILLEGAL_TYPE4. Header of type 100 (R168). -/
  | illegalType4 (rest : BitVec 29)
  /-- ILLEGAL_TYPE5. Header of type 101 (R168). -/
  | illegalType5 (rest : BitVec 29)
  /-- ILLEGAL_TYPE6. Header of type 110 (R168). -/
  | illegalType6 (rest : BitVec 29)
  /-- ILLEGAL_TYPE7. Header of type 111 (R168). -/
  | illegalType7 (rest : BitVec 29)
  /-- DATA_CRC. One payload word for CRC (R181). -/
  | dataCrc (value : Word)
  /-- DATA_FAR. One payload word for FAR (R182). -/
  | dataFar (value : Word)
  /-- DATA_FDRI. One payload word for FDRI (R184). -/
  | dataFdri (value : Word)
  /-- AUTOCRC. The autoCRC word after an FDRI burst (R187). -/
  | autocrc (value : Word)
  /-- DATA_FDRO. One payload word for FDRO (R188). -/
  | dataFdro (value : Word)
  /-- DATA_CMD. One payload word for CMD (R189). -/
  | dataCmd (value : Word)
  /-- DATA_CTL. One payload word for CTL (R190). -/
  | dataCtl (value : Word)
  /-- DATA_MASK. One payload word for MASK (R191). -/
  | dataMask (value : Word)
  /-- DATA_STAT. One payload word for STAT (R192). -/
  | dataStat (value : Word)
  /-- DATA_LOUT. One payload word for LOUT (R193). -/
  | dataLout (value : Word)
  /-- DATA_COR. One payload word for COR (R194). -/
  | dataCor (value : Word)
  /-- DATA_MFWR. One payload word for MFWR (R195). -/
  | dataMfwr (value : Word)
  /-- DATA_FLR. One payload word for FLR (R196). -/
  | dataFlr (value : Word)
  /-- DATA_KEY. One payload word for KEY (R197). -/
  | dataKey (value : Word)
  /-- DATA_CBC. One payload word for CBC (R198). -/
  | dataCbc (value : Word)
  /-- DATA_IDCODE. One payload word for IDCODE (R199). -/
  | dataIdcode (value : Word)
  /-- CMD_NULL. Command code 0 (R205). -/
  | cmdNull
  /-- CMD_WCFG. Command code 1 (R206). -/
  | cmdWcfg
  /-- CMD_MFWR. Command code 2 (R203). -/
  | cmdMfwr
  /-- CMD_LFRM. Command code 3 (R207). -/
  | cmdLfrm
  /-- CMD_RCFG. Command code 4 (R208). -/
  | cmdRcfg
  /-- CMD_START. Command code 5 (R209). -/
  | cmdStart
  /-- CMD_RCAP. Command code 6 (R210). -/
  | cmdRcap
  /-- CMD_RCRC. Command code 7 (R204). -/
  | cmdRcrc
  /-- CMD_AGHIGH. Command code 8 (R211). -/
  | cmdAghigh
  /-- CMD_SWITCH. Command code 9 (R212). -/
  | cmdSwitch
  /-- CMD_GRESTORE. Command code 10 (R213). -/
  | cmdGrestore
  /-- CMD_SHUTDOWN. Command code 11 (R214). -/
  | cmdShutdown
  /-- CMD_GCAPTURE. Command code 12 (R215). -/
  | cmdGcapture
  /-- CMD_DESYNCH. Command code 13 (R216). -/
  | cmdDesynch
  /-- CMD_OTHER. Any other command code (R217). -/
  | cmdOther (code : Word)
  deriving DecidableEq, Repr

/-- The Type-1 WRITE header of a register (R165). -/
def Instr.t1w : Reg → BitVec 11 → Instr
  | .crc => .t1wCrc
  | .far => .t1wFar
  | .fdri => .t1wFdri
  | .fdro => .t1wFdro
  | .cmd => .t1wCmd
  | .ctl => .t1wCtl
  | .mask => .t1wMask
  | .stat => .t1wStat
  | .lout => .t1wLout
  | .cor => .t1wCor
  | .mfwr => .t1wMfwr
  | .flr => .t1wFlr
  | .key => .t1wKey
  | .cbc => .t1wCbc
  | .idcode => .t1wIdcode

/-- The Type-1 READ header of a register (R166). -/
def Instr.t1r : Reg → BitVec 11 → Instr
  | .crc => .t1rCrc
  | .far => .t1rFar
  | .fdri => .t1rFdri
  | .fdro => .t1rFdro
  | .cmd => .t1rCmd
  | .ctl => .t1rCtl
  | .mask => .t1rMask
  | .stat => .t1rStat
  | .lout => .t1rLout
  | .cor => .t1rCor
  | .mfwr => .t1rMfwr
  | .flr => .t1rFlr
  | .key => .t1rKey
  | .cbc => .t1rCbc
  | .idcode => .t1rIdcode

/-- The payload word of a register (spec/43_register_writes.md R180). -/
def Instr.data : Reg → Word → Instr
  | .crc => .dataCrc
  | .far => .dataFar
  | .fdri => .dataFdri
  | .fdro => .dataFdro
  | .cmd => .dataCmd
  | .ctl => .dataCtl
  | .mask => .dataMask
  | .stat => .dataStat
  | .lout => .dataLout
  | .cor => .dataCor
  | .mfwr => .dataMfwr
  | .flr => .dataFlr
  | .key => .dataKey
  | .cbc => .dataCbc
  | .idcode => .dataIdcode

end Sys2Proof
end

