-- ==== Sys2Proof/WellFormed.lean ====
section
/-! DEFINITION. Which terms of `Instr` are words of their own row: the checks that keep two rows of the
opcode table from naming one word. Every operand is as wide as its field, so only three checks are left. -/

namespace Sys2Proof

/-- The sync word (spec/30_encoding.md R81). -/
def syncWord : Word := 0xAA995566#32

/-- R86: a Type-1 READ or WRITE header with these fields is ILLEGAL. -/
def t1FieldsIllegal (addrHi : BitVec 9) (reg : BitVec 5) (rsv : BitVec 2) : Bool :=
  addrHi != 0 || rsv != 0 || decide (14 < reg.toNat)

/-- A SCAN word is not the sync word (R80), an ILLEGAL field row fails a check of R86, and CMD_OTHER
is a code from 14 up (R217). Every other term is well formed. -/
def Instr.wf : Instr → Bool
  | .sync => true
  | .scan w => w != syncWord
  | .noop _ => true
  | .t1wCrc _ => true
  | .t1wFar _ => true
  | .t1wFdri _ => true
  | .t1wFdro _ => true
  | .t1wCmd _ => true
  | .t1wCtl _ => true
  | .t1wMask _ => true
  | .t1wStat _ => true
  | .t1wLout _ => true
  | .t1wCor _ => true
  | .t1wMfwr _ => true
  | .t1wFlr _ => true
  | .t1wKey _ => true
  | .t1wCbc _ => true
  | .t1wIdcode _ => true
  | .t1rCrc _ => true
  | .t1rFar _ => true
  | .t1rFdri _ => true
  | .t1rFdro _ => true
  | .t1rCmd _ => true
  | .t1rCtl _ => true
  | .t1rMask _ => true
  | .t1rStat _ => true
  | .t1rLout _ => true
  | .t1rCor _ => true
  | .t1rMfwr _ => true
  | .t1rFlr _ => true
  | .t1rKey _ => true
  | .t1rCbc _ => true
  | .t1rIdcode _ => true
  | .t2 _ _ => true
  | .illegalT1Op11 _ => true
  | .illegalT1rFields addrHi reg rsv _ => t1FieldsIllegal addrHi reg rsv
  | .illegalT1wFields addrHi reg rsv _ => t1FieldsIllegal addrHi reg rsv
  | .illegalType0 _ => true
  | .illegalType3 _ => true
  | .illegalType4 _ => true
  | .illegalType5 _ => true
  | .illegalType6 _ => true
  | .illegalType7 _ => true
  | .dataCrc _ => true
  | .dataFar _ => true
  | .dataFdri _ => true
  | .autocrc _ => true
  | .dataFdro _ => true
  | .dataCmd _ => true
  | .dataCtl _ => true
  | .dataMask _ => true
  | .dataStat _ => true
  | .dataLout _ => true
  | .dataCor _ => true
  | .dataMfwr _ => true
  | .dataFlr _ => true
  | .dataKey _ => true
  | .dataCbc _ => true
  | .dataIdcode _ => true
  | .cmdNull => true
  | .cmdWcfg => true
  | .cmdMfwr => true
  | .cmdLfrm => true
  | .cmdRcfg => true
  | .cmdStart => true
  | .cmdRcap => true
  | .cmdRcrc => true
  | .cmdAghigh => true
  | .cmdSwitch => true
  | .cmdGrestore => true
  | .cmdShutdown => true
  | .cmdGcapture => true
  | .cmdDesynch => true
  | .cmdOther code => decide (13 < code.toNat)

end Sys2Proof
end

