-- ==== Sys2Proof/Decode.lean ====
section
/-! DEFINITION. From the bytes of the stream to an instruction and back (spec/30_encoding.md). A word has
one class, fixed by the state it is read in and by its bits (R80), so the decoder takes that reading as an
argument. It is total: the only bytes it rejects are fewer than four (spec/20_memory.md R69). -/

namespace Sys2Proof

/-! ## Byte order (spec/20_memory.md R61) -/

/-- The big-endian word of four bytes, the byte at the lowest address in bits [31:24] (R61). -/
def wordOfBytes (b0 b1 b2 b3 : Byte) : Word := b0 ++ b1 ++ b2 ++ b3

/-- The four bytes of a word, most significant first (R61, R66). -/
def bytesOfWord (w : Word) : List Byte :=
  [w.extractLsb' 24 8, w.extractLsb' 16 8, w.extractLsb' 8 8, w.extractLsb' 0 8]

/-! ## Register addresses -/

/-- The 5-bit address of a register (spec/10_state.md R22). -/
def Reg.addr : Reg → BitVec 5
  | .crc => 0#5
  | .far => 1#5
  | .fdri => 2#5
  | .fdro => 3#5
  | .cmd => 4#5
  | .ctl => 5#5
  | .mask => 6#5
  | .stat => 7#5
  | .lout => 8#5
  | .cor => 9#5
  | .mfwr => 10#5
  | .flr => 11#5
  | .key => 12#5
  | .cbc => 13#5
  | .idcode => 14#5

/-- The register at an address; 15 to 31 name none (R88). -/
def Reg.ofAddr (a : BitVec 5) : Option Reg :=
  match a.toNat with
  | 0 => some .crc
  | 1 => some .far
  | 2 => some .fdri
  | 3 => some .fdro
  | 4 => some .cmd
  | 5 => some .ctl
  | 6 => some .mask
  | 7 => some .stat
  | 8 => some .lout
  | 9 => some .cor
  | 10 => some .mfwr
  | 11 => some .flr
  | 12 => some .key
  | 13 => some .cbc
  | 14 => some .idcode
  | _ => none

/-! ## Header layouts (R82, R83, R89) -/

/-- A header of type `t` with its other 29 bits (R82). -/
def headerRaw (t : BitVec 3) (rest : BitVec 29) : Word := t ++ rest

/-- A Type-1 header with op `o` and its other 27 bits (R83). -/
def t1Raw (o : BitVec 2) (rest : BitVec 27) : Word := headerRaw 1#3 (o ++ rest)

/-- A Type-1 header field by field: op, addr_hi, reg, rsv, count (R83). -/
def t1Fields (o : BitVec 2) (addrHi : BitVec 9) (reg : BitVec 5) (rsv : BitVec 2) (count : BitVec 11) : Word :=
  t1Raw o (addrHi ++ reg ++ rsv ++ count)

/-- The op field of a Type-1 header: 01 READ, 10 WRITE (R85). -/
def PacketOp.bits : PacketOp → BitVec 2
  | .read => 1#2
  | .write => 2#2

/-- The Type-1 header of a register: addr_hi and rsv are 0 (R83). -/
def t1Header (o : PacketOp) (r : Reg) (count : BitVec 11) : Word := t1Fields o.bits 0#9 r.addr 0#2 count

/-- A Type-2 header (R89). -/
def t2Header (o : BitVec 2) (count : BitVec 27) : Word := headerRaw 2#3 (o ++ count)

/-! ## Decoding -/

/-- The row of a Type-1 READ or WRITE header, the checks of R86 first (R94). -/
def decodeT1 (o : PacketOp) (w : Word) : Instr :=
  let addrHi := w.extractLsb' 18 9
  let reg := w.extractLsb' 13 5
  let rsv := w.extractLsb' 11 2
  let count := w.extractLsb' 0 11
  let illegal := match o with
    | .read => Instr.illegalT1rFields addrHi reg rsv count
    | .write => Instr.illegalT1wFields addrHi reg rsv count
  if addrHi = 0 ∧ rsv = 0 then
    match Reg.ofAddr reg, o with
    | some r, .read => Instr.t1r r count
    | some r, .write => Instr.t1w r count
    | none, _ => illegal
  else illegal

/-- `classify(w)` of R94: the row of a word read in `WaitingControl`. -/
def classify (w : Word) : Instr :=
  match (w.extractLsb' 29 3).toNat with
  | 0 => .illegalType0 (w.extractLsb' 0 29)
  | 1 =>
    match (w.extractLsb' 27 2).toNat with
    | 0 => .noop (w.extractLsb' 0 27)
    | 1 => decodeT1 .read w
    | 2 => decodeT1 .write w
    | _ => .illegalT1Op11 (w.extractLsb' 0 27)
  | 2 => .t2 (w.extractLsb' 27 2) (w.extractLsb' 0 27)
  | 3 => .illegalType3 (w.extractLsb' 0 29)
  | 4 => .illegalType4 (w.extractLsb' 0 29)
  | 5 => .illegalType5 (w.extractLsb' 0 29)
  | 6 => .illegalType6 (w.extractLsb' 0 29)
  | _ => .illegalType7 (w.extractLsb' 0 29)

/-- The row of a command code (R92): the whole 32-bit word is compared. -/
def decodeCommand (code : Word) : Instr :=
  match code.toNat with
  | 0 => .cmdNull
  | 1 => .cmdWcfg
  | 2 => .cmdMfwr
  | 3 => .cmdLfrm
  | 4 => .cmdRcfg
  | 5 => .cmdStart
  | 6 => .cmdRcap
  | 7 => .cmdRcrc
  | 8 => .cmdAghigh
  | 9 => .cmdSwitch
  | 10 => .cmdGrestore
  | 11 => .cmdShutdown
  | 12 => .cmdGcapture
  | 13 => .cmdDesynch
  | _ => .cmdOther code

/-- The row of a word under a reading (R80). -/
def decodeWord : WordContext → Word → Instr
  | .unsynced, w => if w = syncWord then .sync else .scan w
  | .control, w => classify w
  | .data r, w => Instr.data r w
  | .autoCrc, w => .autocrc w
  | .command, w => decodeCommand w

/-- Why bytes are not an instruction. -/
inductive DecodeError where
  /-- Fewer than four bytes are left: the end of input (spec/20_memory.md R69). -/
  | endOfInput
  deriving DecidableEq, Repr

/-- The first instruction of a list of bytes, and the bytes after it. -/
def decode (c : WordContext) : List Byte → Except DecodeError (Instr × List Byte)
  | b0 :: b1 :: b2 :: b3 :: rest => .ok (decodeWord c (wordOfBytes b0 b1 b2 b3), rest)
  | _ => .error .endOfInput

/-! ## Encoding -/

/-- The word of an instruction, every row from its layout (R81-R92). -/
def encode : Instr → Word
  | .sync => syncWord
  | .scan w => w
  | .noop ignored => t1Raw 0#2 ignored
  | .t1wCrc count => t1Header .write .crc count
  | .t1wFar count => t1Header .write .far count
  | .t1wFdri count => t1Header .write .fdri count
  | .t1wFdro count => t1Header .write .fdro count
  | .t1wCmd count => t1Header .write .cmd count
  | .t1wCtl count => t1Header .write .ctl count
  | .t1wMask count => t1Header .write .mask count
  | .t1wStat count => t1Header .write .stat count
  | .t1wLout count => t1Header .write .lout count
  | .t1wCor count => t1Header .write .cor count
  | .t1wMfwr count => t1Header .write .mfwr count
  | .t1wFlr count => t1Header .write .flr count
  | .t1wKey count => t1Header .write .key count
  | .t1wCbc count => t1Header .write .cbc count
  | .t1wIdcode count => t1Header .write .idcode count
  | .t1rCrc count => t1Header .read .crc count
  | .t1rFar count => t1Header .read .far count
  | .t1rFdri count => t1Header .read .fdri count
  | .t1rFdro count => t1Header .read .fdro count
  | .t1rCmd count => t1Header .read .cmd count
  | .t1rCtl count => t1Header .read .ctl count
  | .t1rMask count => t1Header .read .mask count
  | .t1rStat count => t1Header .read .stat count
  | .t1rLout count => t1Header .read .lout count
  | .t1rCor count => t1Header .read .cor count
  | .t1rMfwr count => t1Header .read .mfwr count
  | .t1rFlr count => t1Header .read .flr count
  | .t1rKey count => t1Header .read .key count
  | .t1rCbc count => t1Header .read .cbc count
  | .t1rIdcode count => t1Header .read .idcode count
  | .t2 op count => t2Header op count
  | .illegalT1Op11 rest => t1Raw 3#2 rest
  | .illegalT1rFields addrHi reg rsv count => t1Fields 1#2 addrHi reg rsv count
  | .illegalT1wFields addrHi reg rsv count => t1Fields 2#2 addrHi reg rsv count
  | .illegalType0 rest => headerRaw 0#3 rest
  | .illegalType3 rest => headerRaw 3#3 rest
  | .illegalType4 rest => headerRaw 4#3 rest
  | .illegalType5 rest => headerRaw 5#3 rest
  | .illegalType6 rest => headerRaw 6#3 rest
  | .illegalType7 rest => headerRaw 7#3 rest
  | .dataCrc value => value
  | .dataFar value => value
  | .dataFdri value => value
  | .autocrc value => value
  | .dataFdro value => value
  | .dataCmd value => value
  | .dataCtl value => value
  | .dataMask value => value
  | .dataStat value => value
  | .dataLout value => value
  | .dataCor value => value
  | .dataMfwr value => value
  | .dataFlr value => value
  | .dataKey value => value
  | .dataCbc value => value
  | .dataIdcode value => value
  | .cmdNull => 0#32
  | .cmdWcfg => 1#32
  | .cmdMfwr => 2#32
  | .cmdLfrm => 3#32
  | .cmdRcfg => 4#32
  | .cmdStart => 5#32
  | .cmdRcap => 6#32
  | .cmdRcrc => 7#32
  | .cmdAghigh => 8#32
  | .cmdSwitch => 9#32
  | .cmdGrestore => 10#32
  | .cmdShutdown => 11#32
  | .cmdGcapture => 12#32
  | .cmdDesynch => 13#32
  | .cmdOther code => code

/-- The reading under which a row of the opcode table stands (R80). -/
def Instr.context : Instr → WordContext
  | .sync => .unsynced
  | .scan _ => .unsynced
  | .noop _ => .control
  | .t1wCrc _ => .control
  | .t1wFar _ => .control
  | .t1wFdri _ => .control
  | .t1wFdro _ => .control
  | .t1wCmd _ => .control
  | .t1wCtl _ => .control
  | .t1wMask _ => .control
  | .t1wStat _ => .control
  | .t1wLout _ => .control
  | .t1wCor _ => .control
  | .t1wMfwr _ => .control
  | .t1wFlr _ => .control
  | .t1wKey _ => .control
  | .t1wCbc _ => .control
  | .t1wIdcode _ => .control
  | .t1rCrc _ => .control
  | .t1rFar _ => .control
  | .t1rFdri _ => .control
  | .t1rFdro _ => .control
  | .t1rCmd _ => .control
  | .t1rCtl _ => .control
  | .t1rMask _ => .control
  | .t1rStat _ => .control
  | .t1rLout _ => .control
  | .t1rCor _ => .control
  | .t1rMfwr _ => .control
  | .t1rFlr _ => .control
  | .t1rKey _ => .control
  | .t1rCbc _ => .control
  | .t1rIdcode _ => .control
  | .t2 _ _ => .control
  | .illegalT1Op11 _ => .control
  | .illegalT1rFields _ _ _ _ => .control
  | .illegalT1wFields _ _ _ _ => .control
  | .illegalType0 _ => .control
  | .illegalType3 _ => .control
  | .illegalType4 _ => .control
  | .illegalType5 _ => .control
  | .illegalType6 _ => .control
  | .illegalType7 _ => .control
  | .dataCrc _ => .data .crc
  | .dataFar _ => .data .far
  | .dataFdri _ => .data .fdri
  | .autocrc _ => .autoCrc
  | .dataFdro _ => .data .fdro
  | .dataCmd _ => .data .cmd
  | .dataCtl _ => .data .ctl
  | .dataMask _ => .data .mask
  | .dataStat _ => .data .stat
  | .dataLout _ => .data .lout
  | .dataCor _ => .data .cor
  | .dataMfwr _ => .data .mfwr
  | .dataFlr _ => .data .flr
  | .dataKey _ => .data .key
  | .dataCbc _ => .data .cbc
  | .dataIdcode _ => .data .idcode
  | .cmdNull => .command
  | .cmdWcfg => .command
  | .cmdMfwr => .command
  | .cmdLfrm => .command
  | .cmdRcfg => .command
  | .cmdStart => .command
  | .cmdRcap => .command
  | .cmdRcrc => .command
  | .cmdAghigh => .command
  | .cmdSwitch => .command
  | .cmdGrestore => .command
  | .cmdShutdown => .command
  | .cmdGcapture => .command
  | .cmdDesynch => .command
  | .cmdOther _ => .command

/-- The bytes of an instruction, as the stream holds them (R61). -/
def encodeBytes (i : Instr) : List Byte := bytesOfWord (encode i)

/-! ## The host's reading of one table row -/

/-- The reading under which the host's table word is placed: the bits do not say it, so the row that fixes
the most bits wins (the sync word; then the command codes 0 to 13; then the headers). DESIGN CHOICE, log entry 4. -/
def tableContext (w : Word) : WordContext :=
  if w = syncWord then .unsynced else if w.toNat < 14 then .command else .control

/-- The instruction the decoder reads from a table word of `nbits` bits, laid out big-endian. -/
def decodeTableWord (nbits w : Nat) : Option Instr :=
  if 32 < nbits then none
  else
    let word : Word := BitVec.ofNat 32 (w % 2 ^ nbits)
    match decode (tableContext word) (bytesOfWord word) with
    | .ok (i, _) => some i
    | .error _ => none

end Sys2Proof
end

