-- ==== Sys2Proof/Machine/Flags.lean ====
section
/-! DEFINITION. The CRC-16 accumulator's arithmetic (spec/40_crc.md). The block has no flags word
(spec/10_state.md R39); the accumulator's value is the one computed condition its choices are made on. -/

namespace Sys2Proof.Machine

/-- `crc_step`: shift one input bit into the accumulator (R110). -/
def crcStep (c : BitVec 16) (b : Bool) : BitVec 16 :=
  if (c.getLsbD 0 ^^ b) = true then (c >>> 1) ^^^ 0xA001#16 else c >>> 1

/-- Shift a list of bits into the accumulator, the head first. -/
def crcBits (c : BitVec 16) (bits : List Bool) : BitVec 16 := bits.foldl crcStep c

/-- The bits of a value from bit 0 up (R111). -/
def bitsLsbFirst {n : Nat} (v : BitVec n) : List Bool := (List.range n).map (fun i => v.getLsbD i)

/-- `fold(c, a, v)`: the 32 bits of `v`, then the 5 bits of `a`, each from bit 0 up (R111). -/
def crcFold (c : BitVec 16) (a : BitVec 5) (v : Word) : BitVec 16 :=
  crcBits (crcBits c (bitsLsbFirst v)) (bitsLsbFirst a)

/-- `update(c, a, v)`: a write to LOUT makes no contribution (R112). -/
def crcUpdate (c : BitVec 16) (a : BitVec 5) (v : Word) : BitVec 16 :=
  if a = Reg.lout.addr then c else crcFold c a v

/-- One byte of the byte-wise CRC-16/ARC update: the byte is xored into the low half and the result shifted
eight times through the reflected polynomial (R113). -/
def arcByte (c : BitVec 16) (b : Byte) : BitVec 16 :=
  (List.range 8).foldl (fun c _ => if c.getLsbD 0 then (c >>> 1) ^^^ 0xA001#16 else c >>> 1) (c ^^^ b.setWidth 16)

/-- The byte-wise CRC-16/ARC update over a list of bytes, with no initial or final inversion (R113). -/
def arcBytes (c : BitVec 16) (bytes : List Byte) : BitVec 16 := bytes.foldl arcByte c

end Sys2Proof.Machine
end

