-- ==== Sys2Proof/Config.lean ====
section
/-! DEFINITION. What the host fixes for a session: the parameters of spec/00_scope.md R9-R11.
The spec leaves no result of any word undefined, so there is no free value. -/

namespace Sys2Proof

/-- The six region types, in the order of the source's enumeration (spec/44_frame_store.md R232). -/
inductive Region where
  | iob | ioi | clb | bram | bramInt | gclk
  deriving DecidableEq, Repr

/-- Every region, in the order of R232. -/
def Region.all : List Region := [.iob, .ioi, .clb, .bram, .bramInt, .gclk]

/-- One number per region type: `column_count` or `frame_count` of a ChipDescriptor (R9). -/
structure RegionCounts where
  iob     : Nat
  ioi     : Nat
  clb     : Nat
  bram    : Nat
  bramInt : Nat
  gclk    : Nat
  deriving DecidableEq, Repr

/-- The number a table of counts holds for a region. -/
def RegionCounts.get (n : RegionCounts) : Region → Nat
  | .iob => n.iob
  | .ioi => n.ioi
  | .clb => n.clb
  | .bram => n.bram
  | .bramInt => n.bramInt
  | .gclk => n.gclk

/-- One entry of `P_CHIPS` (R9). -/
structure ChipDescriptor where
  idcode          : Word
  frameWordLength : Nat
  columnCount     : RegionCounts
  frameCount      : RegionCounts
  deriving DecidableEq, Repr

/-- `P_FRAME_STEP_ENTRY` (R11): the odometer stage at which the per-frame FAR advance enters. -/
inductive FrameStepEntry where
  | minor | bit
  deriving DecidableEq, Repr

/-- The parameters of a session (R9-R11). No step writes them (spec/10_state.md R43). -/
structure Params where
  chips          : List ChipDescriptor
  strict         : Bool
  frameStepEntry : FrameStepEntry
  deriving DecidableEq, Repr

/-- The spec's defaults, `P_STRICT = false` (R10) and `P_FRAME_STEP_ENTRY = MINOR` (R11).
`P_CHIPS` has no default (spec/92_eei_decisions.md D42): the empty table is a DESIGN CHOICE, log entry 1. -/
def Params.default : Params := { chips := [], strict := false, frameStepEntry := .minor }

end Sys2Proof
end

