-- ==== Sys2Proof/Machine/State.lean ====
section
/-! DEFINITION. Everything the spec gives the machine, as plain data (spec/10_state.md), and the state after
reset (R45). Three things are held that the spec counts as the host's: the input buffer, the parameters and
the levels of the input pins (spec/70_reset_and_hazards.md R293; log entries 1, 2 and 3). -/

namespace Sys2Proof.Machine

/-- `st` (spec/10_state.md R20). -/
inductive Status where
  | idle | unsynced | waitingControl | waitingData | done | failed
  deriving DecidableEq, Repr

/-- `fd_phase` (R32). -/
inductive FdPhase where
  | payload | autoCrc
  deriving DecidableEq, Repr

/-- The registers at addresses 1 to 14 (R22). Address 0 is the accumulator, held once, in `State.crc` (R23). -/
structure RegFile where
  far    : Word
  fdri   : Word
  fdro   : Word
  cmd    : Word
  ctl    : Word
  mask   : Word
  stat   : Word
  lout   : Word
  cor    : Word
  mfwr   : Word
  flr    : Word
  key    : Word
  cbc    : Word
  idcode : Word
  deriving DecidableEq, Repr

/-- A frame: `frame_word_length` words in stream order (spec/20_memory.md R66). -/
abbrev Frame := List Word

/-- A slot key (spec/20_memory.md R62). -/
structure SlotKey where
  region : Region
  column : Nat
  frame  : Nat
  deriving DecidableEq, Repr

/-- The slot table as one flat array (spec/44_frame_store.md R232): a slot is empty or holds one frame (R234). -/
abbrev SlotTable := List (Option Frame)

/-- The event kinds of spec/60_exceptions.md R260. -/
inductive EventKind where
  | desyncError
  | malformedPacket
  | inconsistentFrameLength
  | truncatedInput
  | unrecognizedChip
  | geometryMismatch
  | crcResidualNonzero
  | duplicateFrameCapture
  | unrecognizedBlock
  | outOfGeometry
  | noChipResolved
  | noPendingFrame
  | chipChanged
  | commandIgnored
  deriving DecidableEq, Repr

/-- The argument of a `raise`, `warn` or `log` (R263, R272-R275). It is informative only. An unrecognized block is
raised with the block field (spec/41_far_codec.md R134), and R263 lists the FAR word it stands in: `block` holds both. -/
inductive Info where
  | none
  | header (w : Word)
  | idcode (w : Word)
  | block (b : BitVec 2) (far : Word)
  | slot (k : SlotKey)
  | residual (c : BitVec 16)
  | geometry (flr : Word) (frameWordLength : Nat)
  | command (code : Word)
  deriving DecidableEq, Repr

/-- `err`: the error record (R263). -/
structure ErrorRecord where
  kind   : EventKind
  code   : Nat
  state  : Status
  offset : Nat
  info   : Info
  deriving DecidableEq, Repr

/-- One entry of `diag` (spec/60_exceptions.md R270). -/
structure DiagEvent where
  kind   : EventKind
  code   : Nat
  info   : Info
  offset : Nat
  deriving DecidableEq, Repr

/-- The input buffer `IN[0..L-1]` (spec/20_memory.md R60): its length and its bytes, as rising cells that
list no byte equal to what an unlisted address reads as. -/
structure Memory where
  len   : Nat
  cells : List Host.Cell
  deriving DecidableEq, Repr

/-- The levels of the three input pins (spec/00_scope.md R6), driven by the host. -/
structure Pins where
  rst   : Bool
  start : Bool
  step  : Bool
  deriving DecidableEq, Repr

/-- The state of one decode session (spec/10_state.md), with what the host holds for it. -/
structure State where
  st      : Status
  pos     : Nat
  crc     : BitVec 16
  regs    : RegFile
  actReg  : Option Reg
  actOp   : PacketOp
  budget  : Nat
  fdTotal : Nat
  fdJ     : Nat
  fdPhase : FdPhase
  asm     : List Word
  pending : Option Frame
  pendFar : Word
  chip    : Option ChipDescriptor
  store   : Option SlotTable
  diag    : List DiagEvent
  err     : Option ErrorRecord
  params  : Params
  input   : Memory
  pins    : Pins
  deriving DecidableEq, Repr

/-- Where a step answers no next state. Each stands only in states that no run reaches, so each is safe. -/
inductive Fault where
  /-- `step` in `WaitingData` when no class of R80 takes the word: no active register, or a spent budget
  outside the AUTOCRC phase. Safe: log entry 7. -/
  | noWordClass
  /-- `step` in `WaitingData` with fewer than four bytes left, which R169 rules out. Safe: log entry 7. -/
  | payloadPastEnd
  /-- An FDRI payload word with no resolved chip, which R169 rules out. Safe: log entry 7. -/
  | noFrameLength
  /-- A capture with a resolved chip and no slot table, which R36 rules out. Safe: log entry 7. -/
  | noSlotTable
  deriving DecidableEq, Repr

/-- Where the model has no meaning to give. -/
inductive Refusal where
  /-- Raised by `exec` alone, for a row that has no meaning yet. Safe. -/
  | notModelled (mnemonic : String)
  /-- Raised by `step` for a chip table that breaks R9: "A model refuses a table that breaks these". Safe. -/
  | malformedChipTable
  deriving DecidableEq, Repr

/-- Every register 0 (R45). -/
def RegFile.zero : RegFile :=
  { far := 0, fdri := 0, fdro := 0, cmd := 0, ctl := 0, mask := 0, stat := 0, lout := 0, cor := 0,
    mfwr := 0, flr := 0, key := 0, cbc := 0, idcode := 0 }

/-- The empty buffer, L = 0. DESIGN CHOICE, log entry 3: the host supplies the buffer. -/
def Memory.empty : Memory := { len := 0, cells := [] }

/-- The pins of the session sequence of R292: `rst` released, `start` and `step` held. DESIGN CHOICE, log entry 2. -/
def Pins.session : Pins := { rst := false, start := true, step := true }

/-- The state `rst` leaves (R45, R290), for a given buffer, parameters and pin levels, which it does not change. -/
def State.resetWith (params : Params) (input : Memory) (pins : Pins) : State :=
  { st := .idle, pos := 0, crc := 0, regs := RegFile.zero, actReg := none, actOp := .write, budget := 0,
    fdTotal := 0, fdJ := 0, fdPhase := .payload, asm := [], pending := none, pendFar := 0, chip := none,
    store := none, diag := [], err := none, params := params, input := input, pins := pins }

/-- The machine right after reset, with nothing placed by the host. -/
def State.reset : State := State.resetWith Params.default Memory.empty Pins.session

end Sys2Proof.Machine
end

