-- ==== Sys2Proof/Machine/Operands.lean ====
section
/-! DEFINITION. The operand forms: the FAR word as fields, region, column and slot, and the mixed-radix
increment (spec/41_far_codec.md). -/

namespace Sys2Proof.Machine

/-! ## The FAR word -/

/-- The four fields of a FAR word (R130). -/
structure FarFields where
  block     : BitVec 2
  major     : BitVec 8
  minor     : BitVec 8
  bitOffset : BitVec 9
  deriving DecidableEq, Repr

/-- `decode(w)` of R130: bits [31:27] belong to no field. -/
def farDecode (w : Word) : FarFields :=
  { block := w.extractLsb' 25 2, major := w.extractLsb' 17 8, minor := w.extractLsb' 9 8,
    bitOffset := w.extractLsb' 0 9 }

/-- `encode` of R131: bits [31:27] are 0. -/
def farEncode (f : FarFields) : Word := 0#5 ++ f.block ++ f.major ++ f.minor ++ f.bitOffset

/-! ## Region, column and slot -/

/-- The region of a CLB-block major, the tests in the order of R134. -/
def clbBlockRegion (c : ChipDescriptor) (major : Nat) : Region :=
  if major = 0 then .gclk
  else if major = 1 ∨ major = c.columnCount.clb + 4 then .iob
  else if major = 2 ∨ major = c.columnCount.clb + 3 then .ioi
  else .clb

/-- `region_of` (R134); `none` is the error UnrecognizedBlock, met by block 3 alone (R133). A caller raises it with
the argument R134 gives, the block (`unrecognizedBlock` of Ops.lean). -/
def regionOf (c : ChipDescriptor) (block : BitVec 2) (major : BitVec 8) : Option Region :=
  match block.toNat with
  | 0 => some (clbBlockRegion c major.toNat)
  | 1 => some .bram
  | 2 => some .bramInt
  | _ => none

/-- `column_of` (R135). It is asked only for the region `region_of` gives the same major. -/
def columnOf (r : Region) (major : Nat) : Nat :=
  match r with
  | .iob => if major = 1 then 0 else 1
  | .ioi => if major = 2 then 0 else 1
  | .clb => major - 3
  | .bram => major
  | .bramInt => major
  | .gclk => 0

/-- `slot_of` (R137): the frame index is the minor field (R136); `none` is UnrecognizedBlock. -/
def slotOf (c : ChipDescriptor) (far : Word) : Option SlotKey :=
  let f := farDecode far
  match regionOf c f.block f.major with
  | some r => some { region := r, column := columnOf r f.major.toNat, frame := f.minor.toNat }
  | none => none

/-- A slot is in geometry when its column and its frame are below the chip's counts (R137). -/
def inGeometry (c : ChipDescriptor) (k : SlotKey) : Bool :=
  decide (k.column < c.columnCount.get k.region) && decide (k.frame < c.frameCount.get k.region)

/-- `frame_word_length_for` (R138): one length for every region. -/
def frameWordLengthFor (c : ChipDescriptor) (_r : Region) : Nat := c.frameWordLength

/-! ## The increment -/

/-- The minor and major stages of R141. The region is the one of the word before the increment (R142). -/
def farIncMinor (c : ChipDescriptor) (f : FarFields) : Option Word :=
  match regionOf c f.block f.major with
  | none => none
  | some r =>
    if f.minor.toNat + 1 = c.frameCount.get r then
      if (r = .iob ∧ f.major.toNat + 1 = c.columnCount.clb + 5) ∨
          (r = .bram ∧ f.major.toNat + 1 = c.columnCount.bram) then
        some (farEncode { f with block := f.block + 1, major := 0, minor := 0 })
      else some (farEncode { f with major := f.major + 1, minor := 0 })
    else some (farEncode { f with minor := f.minor + 1 })

/-- `far_inc(entry, w)` (R141): every comparison is on the unreduced sum, every field wraps with no carry
(R144); `none` is UnrecognizedBlock, met only at the region lookup (R146). -/
def farInc (entry : FrameStepEntry) (c : ChipDescriptor) (w : Word) : Option Word :=
  let f := farDecode w
  match entry with
  | .minor => farIncMinor c f
  | .bit =>
    if f.bitOffset.toNat + 1 = c.frameWordLength then farIncMinor c { f with bitOffset := 0 }
    else some (farEncode { f with bitOffset := f.bitOffset + 1 })

/-! ## Chip descriptors -/

/-- The constraints R9 puts on one entry of `P_CHIPS`. That `frame_word_length` is a `u32` bounds it above. -/
def chipOk (c : ChipDescriptor) : Bool :=
  decide (1 ≤ c.frameWordLength ∧ c.frameWordLength < 2 ^ 32 ∧
    (∀ r ∈ Region.all, 1 ≤ c.frameCount.get r ∧ c.frameCount.get r ≤ 256) ∧
    c.columnCount.clb + 5 ≤ 255 ∧ c.columnCount.bram ≤ 256 ∧ c.columnCount.bramInt ≤ 256 ∧
    1 ≤ c.columnCount.gclk)

/-- A well-formed `P_CHIPS` (R9): every entry is, and no two share an idcode. -/
def chipTableOk (chips : List ChipDescriptor) : Bool :=
  chips.all chipOk && decide (chips.map (fun c => c.idcode)).Nodup

/-- The entry with an idcode, if there is one: the match is on all 32 bits (spec/43_register_writes.md R199). -/
def findChip (v : Word) (chips : List ChipDescriptor) : Option ChipDescriptor :=
  chips.find? (fun c => c.idcode == v)

end Sys2Proof.Machine
end

