-- ==== Sys2Proof/Machine/FrameStore.lean ====
section
/-! DEFINITION. The slot table: its layout, one slot read and one slot write (spec/44_frame_store.md). -/

namespace Sys2Proof.Machine

/-- `N(r)`: the number of slots of a region (R232). -/
def regionSlots (c : ChipDescriptor) (r : Region) : Nat := c.columnCount.get r * c.frameCount.get r

/-- `base(r)`: the slots of the regions before `r` in the order of R232. -/
def regionBase (c : ChipDescriptor) : Region → Nat
  | .iob => 0
  | .ioi => regionSlots c .iob
  | .clb => regionSlots c .iob + regionSlots c .ioi
  | .bram => regionSlots c .iob + regionSlots c .ioi + regionSlots c .clb
  | .bramInt => regionSlots c .iob + regionSlots c .ioi + regionSlots c .clb + regionSlots c .bram
  | .gclk =>
    regionSlots c .iob + regionSlots c .ioi + regionSlots c .clb + regionSlots c .bram + regionSlots c .bramInt

/-- The number of slots of the table (R232, R233). -/
def totalSlots (c : ChipDescriptor) : Nat := (Region.all.map (regionSlots c)).sum

/-- The flat index of a slot (R232). -/
def flatIndex (c : ChipDescriptor) (k : SlotKey) : Nat :=
  regionBase c k.region + k.column * c.frameCount.get k.region + k.frame

/-- `allocate(c)`: every slot is there and empty (R233). -/
def allocate (c : ChipDescriptor) : SlotTable := List.replicate (totalSlots c) none

/-- What a slot holds: nothing, or one frame (R234). -/
def slotRead (c : ChipDescriptor) (t : SlotTable) (k : SlotKey) : Option Frame := t.getD (flatIndex c k) none

/-- The capture port: one indivisible write of a whole frame (R230, spec/20_memory.md R70). -/
def slotWrite (c : ChipDescriptor) (t : SlotTable) (k : SlotKey) (f : Frame) : SlotTable :=
  t.set (flatIndex c k) (some f)

/-- The number of filled slots (R244). -/
def filledSlots (t : SlotTable) : Nat := t.countP (fun s => s.isSome)

/-- Every slot key of the chip, in the order of the traversal (R241). -/
def allSlotKeys (c : ChipDescriptor) : List SlotKey :=
  Region.all.flatMap fun r =>
    (List.range (c.columnCount.get r)).flatMap fun col =>
      (List.range (c.frameCount.get r)).map fun f => { region := r, column := col, frame := f }

end Sys2Proof.Machine
end

