-- ==== Sys2Proof/Machine/Ops.lean ====
section
/-! DEFINITION. The named operations every meaning is written over: the input buffer and the cursor, the
register file, the diagnostics, taking a fatal error, and the capture of a frame. -/

namespace Sys2Proof.Machine

/-- What a step, or a hook of one, answers. -/
abbrev Result := Host.Outcome State Fault Refusal

/-! ## The input buffer (spec/20_memory.md) -/

/-- What an address below `L` that no cell lists reads as: the byte 0. DESIGN CHOICE, log entry 3: a sparse
way to write a buffer down, so every buffer can still be written. -/
def unlistedByte : Byte := 0

/-- The byte the cells hold at an address. -/
def cellRead : List Host.Cell → Nat → Byte
  | [], _ => unlistedByte
  | (a, b) :: rest, x => if a = x then b else cellRead rest x

/-- Put a byte at an address, keeping the cells rising and listing no unlisted byte. -/
def cellWrite : List Host.Cell → Nat → Byte → List Host.Cell
  | [], x, v => if v = unlistedByte then [] else [(x, v)]
  | (a, b) :: rest, x, v =>
    if a < x then (a, b) :: cellWrite rest x v
    else if a = x then (if v = unlistedByte then rest else (x, v) :: rest)
    else (if v = unlistedByte then (a, b) :: rest else (x, v) :: (a, b) :: rest)

/-- The cells rise strictly from `lo` and list no unlisted byte. -/
def cellsRising (lo : Nat) : List Host.Cell → Bool
  | [] => true
  | (a, b) :: rest => decide (lo ≤ a) && (b != unlistedByte) && cellsRising (a + 1) rest

/-- The canonical form of a buffer: rising cells, all below `L`. -/
def Memory.wf (m : Memory) : Bool := cellsRising 0 m.cells && m.cells.all (fun p => decide (p.1 < m.len))

/-- One byte of the buffer. -/
def Memory.read (m : Memory) (a : Nat) : Byte := cellRead m.cells a

/-- The HOST's write of one byte: no step of the block writes the buffer (R60). -/
def Memory.write (m : Memory) (a : Nat) (v : Byte) : Memory :=
  { len := max m.len (a + 1), cells := cellWrite m.cells a v }

/-- The HOST's write of bytes from an address up. -/
def Memory.writeBytes (m : Memory) (a : Nat) : List Byte → Memory
  | [] => m
  | b :: rest => (m.write a b).writeBytes (a + 1) rest

/-- The buffer that holds a list of bytes from address 0. -/
def Memory.ofBytes (bytes : List Byte) : Memory := Memory.empty.writeBytes 0 bytes

/-- The four bytes of the word at an address (R61). -/
def Memory.wordBytes (m : Memory) (a : Nat) : List Byte := [m.read a, m.read (a + 1), m.read (a + 2), m.read (a + 3)]

/-- `MemRead(a, 4)`: big-endian (R61). -/
def Memory.readWord (m : Memory) (a : Nat) : Word :=
  wordOfBytes (m.read a) (m.read (a + 1)) (m.read (a + 2)) (m.read (a + 3))

/-- `remaining()` (spec/00_scope.md R13). -/
def State.remaining (s : State) : Nat := s.input.len - s.pos

/-- The effect of `ReadWord()` on the cursor: four bytes on (spec/10_state.md R21). -/
def State.readWord (s : State) : State := { s with pos := s.pos + 4 }

/-- The offset of the word just read. The hooks of a payload word record it (`off` of spec/43_register_writes.md). -/
def State.wordOffset (s : State) : Nat := s.pos - 4

/-! ## The register file (spec/10_state.md R22, R23) -/

/-- `regs[a]`: address 0 is the accumulator (R23). -/
def State.readReg (s : State) : Reg → Word
  | .crc => s.crc.setWidth 32
  | .far => s.regs.far
  | .fdri => s.regs.fdri
  | .fdro => s.regs.fdro
  | .cmd => s.regs.cmd
  | .ctl => s.regs.ctl
  | .mask => s.regs.mask
  | .stat => s.regs.stat
  | .lout => s.regs.lout
  | .cor => s.regs.cor
  | .mfwr => s.regs.mfwr
  | .flr => s.regs.flr
  | .key => s.regs.key
  | .cbc => s.regs.cbc
  | .idcode => s.regs.idcode

/-- `regs[a] <- v` for the addresses 1 to 14. No raw value is kept for address 0 (R23). -/
def RegFile.write (f : RegFile) (v : Word) : Reg → RegFile
  | .crc => f
  | .far => { f with far := v }
  | .fdri => { f with fdri := v }
  | .fdro => { f with fdro := v }
  | .cmd => { f with cmd := v }
  | .ctl => { f with ctl := v }
  | .mask => { f with mask := v }
  | .stat => { f with stat := v }
  | .lout => { f with lout := v }
  | .cor => { f with cor := v }
  | .mfwr => { f with mfwr := v }
  | .flr => { f with flr := v }
  | .key => { f with key := v }
  | .cbc => { f with cbc := v }
  | .idcode => { f with idcode := v }

/-- Store a payload word in its register (spec/43_register_writes.md R180). -/
def State.storeReg (s : State) (r : Reg) (v : Word) : State := { s with regs := s.regs.write v r }

/-- Set the FAR register outside a FAR write: no fold, no dispatch (spec/43_register_writes.md R185). -/
def State.setFar (s : State) (w : Word) : State := { s with regs := s.regs.write w .far }

/-- Set the accumulator. -/
def State.setCrc (s : State) (c : BitVec 16) : State := { s with crc := c }

/-- Fold a register write into the accumulator; LOUT makes no contribution (spec/40_crc.md R112). -/
def State.foldCrc (s : State) (r : Reg) (v : Word) : State := s.setCrc (crcUpdate s.crc r.addr v)

/-- The read, the fold and the store of one payload word, in the order of spec/43_register_writes.md R221. -/
def State.payloadWrite (s : State) (r : Reg) (v : Word) : State := (s.readWord.foldCrc r v).storeReg r v

/-- The end of a payload word that is not FDRI's: `budget` falls by one, and `WaitingData` is left at 0 (R180). -/
def State.finishPayload (s : State) : State :=
  { s with budget := s.budget - 1, st := if s.budget - 1 = 0 then .waitingControl else s.st }

/-! ## Fatal errors, warnings and events (spec/60_exceptions.md) -/

/-- The code of an event kind (R260). -/
def EventKind.code : EventKind → Nat
  | .desyncError => 1
  | .malformedPacket => 2
  | .inconsistentFrameLength => 3
  | .truncatedInput => 4
  | .unrecognizedChip => 5
  | .geometryMismatch => 6
  | .crcResidualNonzero => 7
  | .duplicateFrameCapture => 8
  | .unrecognizedBlock => 16
  | .outOfGeometry => 17
  | .noChipResolved => 18
  | .noPendingFrame => 19
  | .chipChanged => 20
  | .commandIgnored => 32

/-- The two warnings strict mode promotes (R271). -/
def EventKind.promotable : EventKind → Bool
  | .geometryMismatch => true
  | .crcResidualNonzero => true
  | _ => false

/-- TAKING A FATAL ERROR, `raise` (R262): the record keeps `st` and the offset of the failing step, and `st`
becomes `Failed`. No rule changes `st` before a `raise` of the same step, so `s.st` is `st` at the step's start.
There is no return: only `rst` leaves `Failed` (R282). -/
def State.raise (s : State) (kind : EventKind) (info : Info) (off : Nat) : State :=
  { s with
    err := some { kind := kind, code := kind.code, state := s.st, offset := off, info := info }
    st := .failed }

/-- `raise UnrecognizedBlock(block)` of `region_of` (spec/41_far_codec.md R134), for the FAR word it was asked about. -/
def State.unrecognizedBlock (s : State) (far : Word) (off : Nat) : State :=
  s.raise .unrecognizedBlock (.block (farDecode far).block far) off

/-- Append an event to `diag` (R270, R275). -/
def State.log (s : State) (kind : EventKind) (info : Info) (off : Nat) : State :=
  { s with diag := s.diag ++ [{ kind := kind, code := kind.code, info := info, offset := off }] }

/-- `warn`: an event, or a `raise` when strict mode promotes it (R270, R271). -/
def State.warn (s : State) (kind : EventKind) (info : Info) (off : Nat) : State :=
  if (s.params.strict && kind.promotable) = true then s.raise kind info off else s.log kind info off

/-- Go on with the rest of a step, unless the step has ended: "nothing after it in the step happens"
(spec/00_scope.md R13, `raise`). -/
def thenStep (r : Result) (k : State → Result) : Result :=
  match r with
  | .next s => if s.st = .failed then .next s else k s
  | .fault f => .fault f
  | .refused x => .refused x

/-! ## Capture (spec/44_frame_store.md R230) -/

/-- The last lines of R230, the slot in geometry: the duplicate warning, then the slot write. -/
def captureInto (c : ChipDescriptor) (k : SlotKey) (f : Frame) (off : Nat) (s : State) : Result :=
  match s.store with
  | none => .fault .noSlotTable
  | some t =>
    let s1 := if (slotRead c t k).isSome then s.warn .duplicateFrameCapture (.slot k) off else s
    .next { s1 with store := some (slotWrite c t k f) }

/-- `capture(frame, far, off)`: the checks in the order of R230, and the first that fails ends the step. -/
def capture (frame : Option Frame) (far : Word) (off : Nat) (s : State) : Result :=
  match s.chip with
  | none => .next (s.raise .noChipResolved .none off)
  | some c =>
    match frame with
    | none => .next (s.raise .noPendingFrame .none off)
    | some f =>
      match slotOf c far with
      | none => .next (s.unrecognizedBlock far off)
      | some k =>
        if inGeometry c k = true then captureInto c k f off s
        else .next (s.raise .outOfGeometry (.slot k) off)

end Sys2Proof.Machine
end

