-- ==== Sys2Proof/Machine/Commands.lean ====
section
/-! DEFINITION. The command codes and the command-dispatch hook (spec/43_register_writes.md R200-R217). A
command code is no word of its own: the meaning of its row is what the hook does with it, after the CMD or
FAR word that brought it has been read, folded and stored (R118 of spec/40_crc.md; log entry 8). -/

namespace Sys2Proof.Machine

/-- NO-OP COMMAND (R202): the code is logged at the offset of the word that dispatched it (spec/60_exceptions.md R275). -/
def ignoreCommand (code : Word) (s : State) : Result :=
  .next (s.log .commandIgnored (.command code) s.wordOffset)

/-- CMD_NULL (R205). -/
def execCmdNull (s : State) : Result := ignoreCommand 0#32 s

/-- CMD_WCFG (R206). -/
def execCmdWcfg (s : State) : Result := ignoreCommand 1#32 s

/-- CMD_MFWR (R203): capture the pending frame at the current FAR; `pending` keeps its value. -/
def execCmdMfwr (s : State) : Result := capture s.pending s.regs.far s.wordOffset s

/-- CMD_LFRM (R207). -/
def execCmdLfrm (s : State) : Result := ignoreCommand 3#32 s

/-- CMD_RCFG (R208). -/
def execCmdRcfg (s : State) : Result := ignoreCommand 4#32 s

/-- CMD_START (R209). -/
def execCmdStart (s : State) : Result := ignoreCommand 5#32 s

/-- CMD_RCAP (R210). -/
def execCmdRcap (s : State) : Result := ignoreCommand 6#32 s

/-- CMD_RCRC (R204). -/
def execCmdRcrc (s : State) : Result := .next (s.setCrc 0#16)

/-- CMD_AGHIGH (R211). -/
def execCmdAghigh (s : State) : Result := ignoreCommand 8#32 s

/-- CMD_SWITCH (R212). -/
def execCmdSwitch (s : State) : Result := ignoreCommand 9#32 s

/-- CMD_GRESTORE (R213). -/
def execCmdGrestore (s : State) : Result := ignoreCommand 10#32 s

/-- CMD_SHUTDOWN (R214). -/
def execCmdShutdown (s : State) : Result := ignoreCommand 11#32 s

/-- CMD_GCAPTURE (R215). -/
def execCmdGcapture (s : State) : Result := ignoreCommand 12#32 s

/-- CMD_DESYNCH (R216). -/
def execCmdDesynch (s : State) : Result := ignoreCommand 13#32 s

/-- CMD_OTHER (R217): no command value is an error. -/
def execCmdOther (code : Word) (s : State) : Result := ignoreCommand code s

/-- `dispatch(code, off)` (R200): run the row of the code. -/
def dispatch (code : Word) (s : State) : Result :=
  match code.toNat with
  | 0 => execCmdNull s
  | 1 => execCmdWcfg s
  | 2 => execCmdMfwr s
  | 3 => execCmdLfrm s
  | 4 => execCmdRcfg s
  | 5 => execCmdStart s
  | 6 => execCmdRcap s
  | 7 => execCmdRcrc s
  | 8 => execCmdAghigh s
  | 9 => execCmdSwitch s
  | 10 => execCmdGrestore s
  | 11 => execCmdShutdown s
  | 12 => execCmdGcapture s
  | 13 => execCmdDesynch s
  | _ => execCmdOther code s

end Sys2Proof.Machine
end

