-- ==== Sys2Proof/Machine/Framer.lean ====
section
/-! DEFINITION. The meanings of the words read in `Unsynced` and `WaitingControl`: the sync scan and the
packet headers (spec/42_packet_framer.md). -/

namespace Sys2Proof.Machine

/-! ## The scan (R161) -/

/-- SYNC (R161). -/
def execSync (s : State) : Result := .next { s.readWord with st := .waitingControl }

/-- SCAN (R161): the word has no other effect. -/
def execScan (_w : Word) (s : State) : Result := .next s.readWord

/-! ## NOOP (R164) -/

/-- NOOP (R164): every bit below the op is ignored. -/
def execNoop (_ignored : BitVec 27) (s : State) : Result := .next s.readWord

/-! ## Entering a payload (R169) -/

/-- The words a payload of `n` still needs: FDRI's needs its autoCRC word too (R169). -/
def payloadNeed (r : Option Reg) (n : Nat) : Nat := n + if r = some .fdri then 1 else 0

/-- The end of `enter_data`: the payload begins (R169). -/
def State.beginPayload (s : State) (n : Nat) : State := { s with budget := n, st := .waitingData }

/-- The FDRI burst state at the start of a payload (R169). -/
def State.beginBurst (s : State) (n : Nat) : State := { s with fdTotal := n, fdJ := 0, fdPhase := .payload, asm := [] }

/-- `enter_data(n, off)` (R169), the checks in the order of spec/60_exceptions.md R280; `w` is the header. -/
def enterData (n : Nat) (w : Word) (off : Nat) (s : State) : State :=
  if s.remaining < 4 * payloadNeed s.actReg n then s.raise .truncatedInput (.header w) off
  else if s.actReg = some .fdri then
    match s.chip with
    | none => s.raise .noChipResolved (.header w) off
    | some c =>
      if n % c.frameWordLength ≠ 0 then s.raise .inconsistentFrameLength (.header w) off
      else (s.beginBurst n).beginPayload n
  else s.beginPayload n

/-- The part of a header after it has selected its register: a count of 0 stays (R165-R167). -/
def headerPayload (n : Nat) (w : Word) (off : Nat) (s : State) : State := if n = 0 then s else enterData n w off s

/-- A Type-1 READ or WRITE header (R165, R166). -/
def t1Step (o : PacketOp) (r : Reg) (count : BitVec 11) (s : State) : Result :=
  .next (headerPayload count.toNat (t1Header o r count) s.pos { s.readWord with actReg := some r, actOp := o })

/-- An ILLEGAL header (R168). -/
def illegalStep (w : Word) (s : State) : Result := .next (s.readWord.raise .malformedPacket (.header w) s.pos)

/-! ## Type-1 WRITE headers (R165) -/

/-- T1W_CRC (R165). -/
def execT1wCrc (count : BitVec 11) (s : State) : Result := t1Step .write .crc count s

/-- T1W_FAR (R165). -/
def execT1wFar (count : BitVec 11) (s : State) : Result := t1Step .write .far count s

/-- T1W_FDRI (R165). -/
def execT1wFdri (count : BitVec 11) (s : State) : Result := t1Step .write .fdri count s

/-- T1W_FDRO (R165). -/
def execT1wFdro (count : BitVec 11) (s : State) : Result := t1Step .write .fdro count s

/-- T1W_CMD (R165). -/
def execT1wCmd (count : BitVec 11) (s : State) : Result := t1Step .write .cmd count s

/-- T1W_CTL (R165). -/
def execT1wCtl (count : BitVec 11) (s : State) : Result := t1Step .write .ctl count s

/-- T1W_MASK (R165). -/
def execT1wMask (count : BitVec 11) (s : State) : Result := t1Step .write .mask count s

/-- T1W_STAT (R165). -/
def execT1wStat (count : BitVec 11) (s : State) : Result := t1Step .write .stat count s

/-- T1W_LOUT (R165). -/
def execT1wLout (count : BitVec 11) (s : State) : Result := t1Step .write .lout count s

/-- T1W_COR (R165). -/
def execT1wCor (count : BitVec 11) (s : State) : Result := t1Step .write .cor count s

/-- T1W_MFWR (R165). -/
def execT1wMfwr (count : BitVec 11) (s : State) : Result := t1Step .write .mfwr count s

/-- T1W_FLR (R165). -/
def execT1wFlr (count : BitVec 11) (s : State) : Result := t1Step .write .flr count s

/-- T1W_KEY (R165). -/
def execT1wKey (count : BitVec 11) (s : State) : Result := t1Step .write .key count s

/-- T1W_CBC (R165). -/
def execT1wCbc (count : BitVec 11) (s : State) : Result := t1Step .write .cbc count s

/-- T1W_IDCODE (R165). -/
def execT1wIdcode (count : BitVec 11) (s : State) : Result := t1Step .write .idcode count s

/-! ## Type-1 READ headers (R166): the payload is consumed as a WRITE packet's (spec/10_state.md R30) -/

/-- T1R_CRC (R166). -/
def execT1rCrc (count : BitVec 11) (s : State) : Result := t1Step .read .crc count s

/-- T1R_FAR (R166). -/
def execT1rFar (count : BitVec 11) (s : State) : Result := t1Step .read .far count s

/-- T1R_FDRI (R166). -/
def execT1rFdri (count : BitVec 11) (s : State) : Result := t1Step .read .fdri count s

/-- T1R_FDRO (R166). -/
def execT1rFdro (count : BitVec 11) (s : State) : Result := t1Step .read .fdro count s

/-- T1R_CMD (R166). -/
def execT1rCmd (count : BitVec 11) (s : State) : Result := t1Step .read .cmd count s

/-- T1R_CTL (R166). -/
def execT1rCtl (count : BitVec 11) (s : State) : Result := t1Step .read .ctl count s

/-- T1R_MASK (R166). -/
def execT1rMask (count : BitVec 11) (s : State) : Result := t1Step .read .mask count s

/-- T1R_STAT (R166). -/
def execT1rStat (count : BitVec 11) (s : State) : Result := t1Step .read .stat count s

/-- T1R_LOUT (R166). -/
def execT1rLout (count : BitVec 11) (s : State) : Result := t1Step .read .lout count s

/-- T1R_COR (R166). -/
def execT1rCor (count : BitVec 11) (s : State) : Result := t1Step .read .cor count s

/-- T1R_MFWR (R166). -/
def execT1rMfwr (count : BitVec 11) (s : State) : Result := t1Step .read .mfwr count s

/-- T1R_FLR (R166). -/
def execT1rFlr (count : BitVec 11) (s : State) : Result := t1Step .read .flr count s

/-- T1R_KEY (R166). -/
def execT1rKey (count : BitVec 11) (s : State) : Result := t1Step .read .key count s

/-- T1R_CBC (R166). -/
def execT1rCbc (count : BitVec 11) (s : State) : Result := t1Step .read .cbc count s

/-- T1R_IDCODE (R166). -/
def execT1rIdcode (count : BitVec 11) (s : State) : Result := t1Step .read .idcode count s

/-! ## Type-2 headers (R167) -/

/-- T2 (R167): the payload goes to the register of the last Type-1 header; the op field is ignored (R89). -/
def execT2 (op : BitVec 2) (count : BitVec 27) (s : State) : Result :=
  if s.actReg = none then illegalStep (t2Header op count) s
  else .next (headerPayload count.toNat (t2Header op count) s.pos s.readWord)

/-! ## ILLEGAL headers (R168) -/

/-- ILLEGAL_T1_OP11 (R168). -/
def execIllegalT1Op11 (rest : BitVec 27) (s : State) : Result := illegalStep (t1Raw 3#2 rest) s

/-- ILLEGAL_T1R_FIELDS (R168). -/
def execIllegalT1rFields (addrHi : BitVec 9) (reg : BitVec 5) (rsv : BitVec 2) (count : BitVec 11) (s : State) : Result :=
  illegalStep (t1Fields 1#2 addrHi reg rsv count) s

/-- ILLEGAL_T1W_FIELDS (R168). -/
def execIllegalT1wFields (addrHi : BitVec 9) (reg : BitVec 5) (rsv : BitVec 2) (count : BitVec 11) (s : State) : Result :=
  illegalStep (t1Fields 2#2 addrHi reg rsv count) s

/-- ILLEGAL_TYPE0 (R168). -/
def execIllegalType0 (rest : BitVec 29) (s : State) : Result := illegalStep (headerRaw 0#3 rest) s

/-- ILLEGAL_TYPE3 (R168). -/
def execIllegalType3 (rest : BitVec 29) (s : State) : Result := illegalStep (headerRaw 3#3 rest) s

/-- ILLEGAL_TYPE4 (R168). -/
def execIllegalType4 (rest : BitVec 29) (s : State) : Result := illegalStep (headerRaw 4#3 rest) s

/-- ILLEGAL_TYPE5 (R168). -/
def execIllegalType5 (rest : BitVec 29) (s : State) : Result := illegalStep (headerRaw 5#3 rest) s

/-- ILLEGAL_TYPE6 (R168). -/
def execIllegalType6 (rest : BitVec 29) (s : State) : Result := illegalStep (headerRaw 6#3 rest) s

/-- ILLEGAL_TYPE7 (R168). -/
def execIllegalType7 (rest : BitVec 29) (s : State) : Result := illegalStep (headerRaw 7#3 rest) s

end Sys2Proof.Machine
end

