-- ==== Sys2Proof/Machine/RegisterWrites.lean ====
section
/-! DEFINITION. The meanings of the words read in `WaitingData`: one payload word of each register, the FDRI
burst and the autoCRC word (spec/43_register_writes.md). -/

namespace Sys2Proof.Machine

/-! ## Registers with no hook (R180) -/

/-- A payload word of a register with no post-write hook: read, fold, store, count (R180). -/
def plainWrite (r : Reg) (v : Word) (s : State) : Result := .next (s.payloadWrite r v).finishPayload

/-- A payload word of a register with a hook. The hook runs after the store and before the count; an error it
raises ends the step with `budget` as it was (R221, spec/60_exceptions.md R262). -/
def hookedWrite (r : Reg) (v : Word) (hook : State → Result) (s : State) : Result :=
  thenStep (hook (s.payloadWrite r v)) (fun s' => .next s'.finishPayload)

/-! ## The hooks -/

/-- The residual check of a CRC write (R181). -/
def residualCheck (s : State) : Result :=
  if s.crc ≠ 0 then .next (s.warn .crcResidualNonzero (.residual s.crc) s.wordOffset) else .next s

/-- `flr_check(c, off)` (R219): the sum is a natural number. -/
def flrCheck (c : ChipDescriptor) (s : State) : State :=
  if s.regs.flr.toNat + 1 ≠ c.frameWordLength then
    s.warn .geometryMismatch (.geometry s.regs.flr c.frameWordLength) s.wordOffset
  else s

/-- `resolve_chip(v, off)` (R199, R220). -/
def resolveChip (v : Word) (s : State) : Result :=
  match findChip v s.params.chips with
  | none => .next (s.raise .unrecognizedChip (.idcode v) s.wordOffset)
  | some c =>
    match s.chip with
    | some c0 => if c0 = c then .next s else .next (s.raise .chipChanged (.idcode v) s.wordOffset)
    | none => .next (flrCheck c { s with chip := some c, store := some (allocate c) })

/-! ## FDRI (R183-R187) -/

/-- The first lines of a frame's first word: the previous frame of this burst is captured at its own address,
before the word is read; then FAR is recorded and the assembly buffer emptied (R184). -/
def beginFrame (s : State) : Result :=
  thenStep (if 0 < s.fdJ then capture s.pending s.pendFar s.pos s else .next s)
    (fun s' => .next { s' with pendFar := s'.regs.far, asm := [] })

/-- The word itself: read, fold, store, append (R184). -/
def appendWord (v : Word) (s : State) : State :=
  { s.payloadWrite .fdri v with asm := s.asm ++ [v] }

/-- The last lines of a frame's last word: the frame becomes pending and FAR advances once (R184, R185). A failed
advance ends the step with `pending` set and FAR as it was (spec/60_exceptions.md R262). -/
def endFrame (c : ChipDescriptor) (s : State) : State :=
  let s1 := { s with pending := some s.asm }
  match farInc s.params.frameStepEntry c s.regs.far with
  | some w => s1.setFar w
  | none => s1.unrecognizedBlock s.regs.far s.wordOffset

/-- The count of an FDRI payload word: the burst stays in `WaitingData` for its autoCRC word (R184). -/
def countBurstWord (s : State) : State :=
  { s with
    fdJ := s.fdJ + 1
    budget := s.budget - 1
    fdPhase := if s.budget - 1 = 0 then .autoCrc else s.fdPhase }

/-- `fdri_payload_step()` on a chip; `k` is the index of the word in its frame (R184). -/
def fdriStep (c : ChipDescriptor) (v : Word) (s : State) : Result :=
  let k := s.fdJ % c.frameWordLength
  thenStep (if k = 0 then beginFrame s else .next s) fun s1 =>
    let s2 := appendWord v s1
    thenStep (.next (if k + 1 = c.frameWordLength then endFrame c s2 else s2)) fun s3 => .next (countBurstWord s3)

/-- What `asm` holds of the frame in progress (spec/10_state.md R32): its first `fd_j mod F` words, 0 to F - 1 of
them. Between two frames there are none, while `asm` itself keeps the finished frame's words until R184 empties it
at the next first word (log entry 5). -/
def State.frameInProgress (s : State) (c : ChipDescriptor) : List Word := s.asm.take (s.fdJ % c.frameWordLength)

/-! ## One meaning per payload row -/

/-- DATA_CRC (R181). -/
def execDataCrc (value : Word) (s : State) : Result := hookedWrite .crc value residualCheck s

/-- DATA_FAR (R182): the retained command is dispatched again. -/
def execDataFar (value : Word) (s : State) : Result :=
  hookedWrite .far value (fun s' => dispatch s'.regs.cmd s') s

/-- DATA_FDRI (R184). -/
def execDataFdri (value : Word) (s : State) : Result :=
  match s.chip with
  | none => .fault .noFrameLength
  | some c => fdriStep c value s

/-- AUTOCRC (R187): folded with the CRC register's address, stored nowhere, not checked, not counted. -/
def execAutocrc (value : Word) (s : State) : Result :=
  .next { s.readWord.foldCrc .crc value with st := .waitingControl }

/-- DATA_CMD (R189): the word just stored is dispatched. -/
def execDataCmd (value : Word) (s : State) : Result := hookedWrite .cmd value (dispatch value) s

/-- DATA_IDCODE (R199). -/
def execDataIdcode (value : Word) (s : State) : Result := hookedWrite .idcode value (resolveChip value) s

/-- DATA_FDRO (R188). -/
def execDataFdro (value : Word) (s : State) : Result := plainWrite .fdro value s

/-- DATA_CTL (R190). -/
def execDataCtl (value : Word) (s : State) : Result := plainWrite .ctl value s

/-- DATA_MASK (R191). -/
def execDataMask (value : Word) (s : State) : Result := plainWrite .mask value s

/-- DATA_STAT (R192). -/
def execDataStat (value : Word) (s : State) : Result := plainWrite .stat value s

/-- DATA_LOUT (R193). -/
def execDataLout (value : Word) (s : State) : Result := plainWrite .lout value s

/-- DATA_COR (R194). -/
def execDataCor (value : Word) (s : State) : Result := plainWrite .cor value s

/-- DATA_MFWR (R195). -/
def execDataMfwr (value : Word) (s : State) : Result := plainWrite .mfwr value s

/-- DATA_FLR (R196). -/
def execDataFlr (value : Word) (s : State) : Result := plainWrite .flr value s

/-- DATA_KEY (R197). -/
def execDataKey (value : Word) (s : State) : Result := plainWrite .key value s

/-- DATA_CBC (R198). -/
def execDataCbc (value : Word) (s : State) : Result := plainWrite .cbc value s

end Sys2Proof.Machine
end

