-- ==== Sys2Proof/Machine/Dispatch.lean ====
section
/-! DEFINITION. One arm per row of the opcode table, each a direct call of its meaning. -/

namespace Sys2Proof.Machine

def exec (i : Instr) (s : State) : Host.Outcome State Fault Refusal :=
  match i with
  | .sync => Sys2Proof.Machine.execSync s
  | .scan w => Sys2Proof.Machine.execScan w s
  | .noop ignored => Sys2Proof.Machine.execNoop ignored s
  | .t1wCrc count => Sys2Proof.Machine.execT1wCrc count s
  | .t1wFar count => Sys2Proof.Machine.execT1wFar count s
  | .t1wFdri count => Sys2Proof.Machine.execT1wFdri count s
  | .t1wFdro count => Sys2Proof.Machine.execT1wFdro count s
  | .t1wCmd count => Sys2Proof.Machine.execT1wCmd count s
  | .t1wCtl count => Sys2Proof.Machine.execT1wCtl count s
  | .t1wMask count => Sys2Proof.Machine.execT1wMask count s
  | .t1wStat count => Sys2Proof.Machine.execT1wStat count s
  | .t1wLout count => Sys2Proof.Machine.execT1wLout count s
  | .t1wCor count => Sys2Proof.Machine.execT1wCor count s
  | .t1wMfwr count => Sys2Proof.Machine.execT1wMfwr count s
  | .t1wFlr count => Sys2Proof.Machine.execT1wFlr count s
  | .t1wKey count => Sys2Proof.Machine.execT1wKey count s
  | .t1wCbc count => Sys2Proof.Machine.execT1wCbc count s
  | .t1wIdcode count => Sys2Proof.Machine.execT1wIdcode count s
  | .t1rCrc count => Sys2Proof.Machine.execT1rCrc count s
  | .t1rFar count => Sys2Proof.Machine.execT1rFar count s
  | .t1rFdri count => Sys2Proof.Machine.execT1rFdri count s
  | .t1rFdro count => Sys2Proof.Machine.execT1rFdro count s
  | .t1rCmd count => Sys2Proof.Machine.execT1rCmd count s
  | .t1rCtl count => Sys2Proof.Machine.execT1rCtl count s
  | .t1rMask count => Sys2Proof.Machine.execT1rMask count s
  | .t1rStat count => Sys2Proof.Machine.execT1rStat count s
  | .t1rLout count => Sys2Proof.Machine.execT1rLout count s
  | .t1rCor count => Sys2Proof.Machine.execT1rCor count s
  | .t1rMfwr count => Sys2Proof.Machine.execT1rMfwr count s
  | .t1rFlr count => Sys2Proof.Machine.execT1rFlr count s
  | .t1rKey count => Sys2Proof.Machine.execT1rKey count s
  | .t1rCbc count => Sys2Proof.Machine.execT1rCbc count s
  | .t1rIdcode count => Sys2Proof.Machine.execT1rIdcode count s
  | .t2 op count => Sys2Proof.Machine.execT2 op count s
  | .illegalT1Op11 rest => Sys2Proof.Machine.execIllegalT1Op11 rest s
  | .illegalT1rFields addrHi reg rsv count => Sys2Proof.Machine.execIllegalT1rFields addrHi reg rsv count s
  | .illegalT1wFields addrHi reg rsv count => Sys2Proof.Machine.execIllegalT1wFields addrHi reg rsv count s
  | .illegalType0 rest => Sys2Proof.Machine.execIllegalType0 rest s
  | .illegalType3 rest => Sys2Proof.Machine.execIllegalType3 rest s
  | .illegalType4 rest => Sys2Proof.Machine.execIllegalType4 rest s
  | .illegalType5 rest => Sys2Proof.Machine.execIllegalType5 rest s
  | .illegalType6 rest => Sys2Proof.Machine.execIllegalType6 rest s
  | .illegalType7 rest => Sys2Proof.Machine.execIllegalType7 rest s
  | .dataCrc value => Sys2Proof.Machine.execDataCrc value s
  | .dataFar value => Sys2Proof.Machine.execDataFar value s
  | .dataFdri value => Sys2Proof.Machine.execDataFdri value s
  | .autocrc value => Sys2Proof.Machine.execAutocrc value s
  | .dataFdro value => Sys2Proof.Machine.execDataFdro value s
  | .dataCmd value => Sys2Proof.Machine.execDataCmd value s
  | .dataCtl value => Sys2Proof.Machine.execDataCtl value s
  | .dataMask value => Sys2Proof.Machine.execDataMask value s
  | .dataStat value => Sys2Proof.Machine.execDataStat value s
  | .dataLout value => Sys2Proof.Machine.execDataLout value s
  | .dataCor value => Sys2Proof.Machine.execDataCor value s
  | .dataMfwr value => Sys2Proof.Machine.execDataMfwr value s
  | .dataFlr value => Sys2Proof.Machine.execDataFlr value s
  | .dataKey value => Sys2Proof.Machine.execDataKey value s
  | .dataCbc value => Sys2Proof.Machine.execDataCbc value s
  | .dataIdcode value => Sys2Proof.Machine.execDataIdcode value s
  | .cmdNull => Sys2Proof.Machine.execCmdNull s
  | .cmdWcfg => Sys2Proof.Machine.execCmdWcfg s
  | .cmdMfwr => Sys2Proof.Machine.execCmdMfwr s
  | .cmdLfrm => Sys2Proof.Machine.execCmdLfrm s
  | .cmdRcfg => Sys2Proof.Machine.execCmdRcfg s
  | .cmdStart => Sys2Proof.Machine.execCmdStart s
  | .cmdRcap => Sys2Proof.Machine.execCmdRcap s
  | .cmdRcrc => Sys2Proof.Machine.execCmdRcrc s
  | .cmdAghigh => Sys2Proof.Machine.execCmdAghigh s
  | .cmdSwitch => Sys2Proof.Machine.execCmdSwitch s
  | .cmdGrestore => Sys2Proof.Machine.execCmdGrestore s
  | .cmdShutdown => Sys2Proof.Machine.execCmdShutdown s
  | .cmdGcapture => Sys2Proof.Machine.execCmdGcapture s
  | .cmdDesynch => Sys2Proof.Machine.execCmdDesynch s
  | .cmdOther code => Sys2Proof.Machine.execCmdOther code s

end Sys2Proof.Machine
end

