-- ==== Sys2Proof/Machine/Session.lean ====
section
/-! DEFINITION. What a step does that is no word's meaning: the pins, the end of input, and the fetch of the
next word under the reading its state gives it (spec/42_packet_framer.md, spec/70_reset_and_hazards.md). -/

namespace Sys2Proof.Machine

/-- `rst` (spec/70_reset_and_hazards.md R290): every element of R45 at its reset value; the buffer, the
parameters and the pin levels are the host's and stay. -/
def State.rst (s : State) : State := State.resetWith s.params s.input s.pins

/-- START (R160): `start` in `Idle`. It reads no word. -/
def State.startSession (s : State) : State := { s with st := .unsynced }

/-- DESYNC (R162): the input ends before the sync word. -/
def State.desync (s : State) : State := s.raise .desyncError .none s.pos

/-- END (R163): the input ends in `WaitingControl`. -/
def State.endSession (s : State) : State := { s with st := .done }

/-- The reading the state gives the next word (spec/30_encoding.md R80), if it has one. -/
def State.context (s : State) : Option WordContext :=
  match s.st with
  | .idle => none
  | .unsynced => some .unsynced
  | .waitingControl => some .control
  | .waitingData =>
    match s.actReg with
    | none => none
    | some r =>
      if r = .fdri ∧ s.fdPhase = .autoCrc then some .autoCrc
      else if 0 < s.budget then some (.data r)
      else none
  | .done => none
  | .failed => none

/-- What `step` finds at the cursor. -/
inductive Fetched where
  /-- A word, decoded under the state's reading. -/
  | word (i : Instr)
  /-- The step reads no word and ends in this state. -/
  | noWord (s : State)
  /-- A state that no run reaches. -/
  | stuck (f : Fault)
  deriving DecidableEq, Repr

/-- The step without a word, when fewer than four bytes remain (R162, R163, R169). -/
def State.atEndOfInput (s : State) : Fetched :=
  match s.st with
  | .unsynced => .noWord s.desync
  | .waitingControl => .noWord s.endSession
  | .waitingData => .stuck .payloadPastEnd
  | .idle => .noWord s
  | .done => .noWord s
  | .failed => .noWord s

/-- The word at the cursor under the state's reading, or what the step does without one. -/
def State.fetch (s : State) : Fetched :=
  if s.remaining < 4 then s.atEndOfInput
  else
    match s.context with
    | none => .stuck .noWordClass
    | some c =>
      match decode c (s.input.wordBytes s.pos) with
      | .ok (i, _) => .word i
      | .error .endOfInput => s.atEndOfInput

/-! ## Placing one table word (log entry 4) -/

/-- The state in which the next word is read as `c`, with as little else changed as the reading needs. -/
def State.withContext (s : State) (c : WordContext) : State :=
  match c with
  | .unsynced => { s with st := .unsynced }
  | .control => { s with st := .waitingControl }
  | .data r => { s with st := .waitingData, actReg := some r, fdPhase := .payload, budget := 1 }
  | .autoCrc => { s with st := .waitingData, actReg := some .fdri, fdPhase := .autoCrc, budget := 0 }
  | .command => { s with st := .waitingData, actReg := some .cmd, budget := 1 }

end Sys2Proof.Machine
end

