-- ==== Sys2Proof/Machine/Step.lean ====
section
/-! DEFINITION. One step of the block under the levels of its input pins (spec/00_scope.md R5, R6;
spec/70_reset_and_hazards.md R293). -/

namespace Sys2Proof.Machine

/-- A `step` in `Unsynced`, `WaitingControl` or `WaitingData`: at most one word, decoded and executed. -/
def wordStep (s : State) : Host.Outcome State Fault Refusal :=
  match s.fetch with
  | .word i => exec i s
  | .noWord s' => .next s'
  | .stuck f => .fault f

/-- One step. A chip table that breaks R9 is refused. `rst` acts in any state (R290). `start` acts in `Idle`
alone and reads no word (R160). `step` acts in the three running states; in `Done` and `Failed` it has no
effect (R170). The order of the pins is log entry 2. -/
def step (s : State) : Host.Outcome State Fault Refusal :=
  if (!chipTableOk s.params.chips) = true then .refused .malformedChipTable
  else if s.pins.rst = true then .next s.rst
  else
    match s.st with
    | .idle => .next (if s.pins.start then s.startSession else s)
    | .unsynced => if s.pins.step then wordStep s else .next s
    | .waitingControl => if s.pins.step then wordStep s else .next s
    | .waitingData => if s.pins.step then wordStep s else .next s
    | .done => .next s
    | .failed => .next s

/-- The state with a table word of `nbits` bits placed where the next step reads, under the reading the
decoder gives it, and the pins released to a plain `step`. The word stands for a stream the host loads (log entry 4). -/
def State.withFetchWord (s : State) (nbits w : Nat) : State :=
  let word : Word := BitVec.ofNat 32 (w % 2 ^ nbits)
  { s.withContext (tableContext word) with
    input := s.input.writeBytes s.pos (bytesOfWord word)
    pins := { s.pins with rst := false, step := true } }

/-- The host drives the pins, one setting before each step. -/
def drive : List Pins → State → Host.Outcome State Fault Refusal
  | [], s => .next s
  | p :: ps, s =>
    match step { s with pins := p } with
    | .next s' => drive ps s'
    | .fault f => .fault f
    | .refused x => .refused x

end Sys2Proof.Machine
end

