-- ==== Sys2Proof/Machine/Query.lean ====
section
/-! DEFINITION. The host's query port and the textual names (spec/44_frame_store.md R240-R243,
spec/41_far_codec.md R138, R148). A query is a function of the state and changes nothing. -/

namespace Sys2Proof.Machine

/-- Why a query is refused: an error of the host that asked (R240). -/
inductive QueryRefusal where
  | noStore
  | outOfGeometry
  deriving DecidableEq, Repr

/-- What `lookup_frame` answers (R240). -/
inductive Lookup where
  | frame (bytes : List Byte)
  | notCaptured
  | refused (r : QueryRefusal)
  deriving DecidableEq, Repr

/-- A frame as bytes, each word most significant byte first (spec/20_memory.md R66). -/
def frameBytes (f : Frame) : List Byte := f.flatMap bytesOfWord

/-- The chip and the slot table, once both are there. -/
def State.openStore (s : State) : Option (ChipDescriptor × SlotTable) :=
  match s.chip, s.store with
  | some c, some t => some (c, t)
  | _, _ => none

/-- `lookup_frame(region, column, frame)` (R240). -/
def lookupFrame (s : State) (k : SlotKey) : Lookup :=
  match s.openStore with
  | none => .refused .noStore
  | some (c, t) =>
    if inGeometry c k = true then
      match slotRead c t k with
      | some f => .frame (frameBytes f)
      | none => .notCaptured
    else .refused .outOfGeometry

/-- The traversal (R241): every slot of the table once, an empty one as absent. With no store it is refused,
as a lookup is (R235; log entry 11). -/
def traverse (s : State) : Except QueryRefusal (List (SlotKey × Option Frame)) :=
  match s.openStore with
  | none => .error .noStore
  | some (c, t) => .ok ((allSlotKeys c).map (fun k => (k, slotRead c t k)))

/-- The `frame_word_length_for` query (R243, R138). -/
def queryFrameWordLength (c : ChipDescriptor) (r : Region) : Nat := frameWordLengthFor c r

/-! ## Names (R242, R148) -/

/-- The digits of a number in a base, most significant first, in front of `acc`. -/
def digitsFrom (base : Nat) : Nat → Nat → List Char → List Char
  | 0, _, acc => acc
  | fuel + 1, n, acc =>
    let acc' := Nat.digitChar (n % base) :: acc
    if n / base = 0 then acc' else digitsFrom base fuel (n / base) acc'

/-- A number in decimal with no padding. -/
def decimalChars (n : Nat) : List Char := digitsFrom 10 (n + 1) n []

/-- A number in lower-case hexadecimal with at least two digits. -/
def hexChars (n : Nat) : List Char :=
  let d := digitsFrom 16 (n + 1) n []
  if d.length < 2 then '0' :: d else d

/-- The name of a region, as R232 writes it. -/
def Region.chars : Region → List Char
  | .iob => ['I', 'O', 'B']
  | .ioi => ['I', 'O', 'I']
  | .clb => ['C', 'L', 'B']
  | .bram => ['B', 'R', 'A', 'M']
  | .bramInt => ['B', 'R', 'A', 'M', '_', 'I', 'N', 'T']
  | .gclk => ['G', 'C', 'L', 'K']

/-- The characters of a frame name (R242). -/
def frameNameChars (k : SlotKey) : List Char :=
  ['f', 'r', 'a', 'm', 'e', '_'] ++ Region.chars k.region ++ ['_'] ++ hexChars k.column ++ ['_'] ++ hexChars k.frame

/-- The frame name of a slot (R242). -/
def frameName (k : SlotKey) : String := String.ofList (frameNameChars k)

/-- The characters of a FAR name (R148). -/
def farNameChars (w : Word) : List Char :=
  let f := farDecode w
  decimalChars f.block.toNat ++ ['_'] ++ decimalChars f.major.toNat ++ ['_'] ++ decimalChars f.minor.toNat ++
    ['_'] ++ decimalChars f.bitOffset.toNat

/-- The FAR name of a word (R148). -/
def farName (w : Word) : String := String.ofList (farNameChars w)

end Sys2Proof.Machine
end

