-- ==== Sys2Proof/Safety.lean ====
section
/-! DEFINITION. The words claims are made in: the end of a run, the coherence of a state, and the classes of
word. -/

namespace Sys2Proof.Machine

/-- A terminal state: no step leaves it (spec/10_state.md R20). -/
abbrev State.Terminal (s : State) : Prop := s.st = .done ∨ s.st = .failed

/-- The end of a run (spec/70_reset_and_hazards.md R296): `Failed` is no end. -/
abbrev State.Ended (s : State) : Prop := s.st = .done

/-- The host holds `step` and has released `rst`. -/
abbrev State.Stepping (s : State) : Prop := s.pins.rst = false ∧ s.pins.step = true

/-- What `WaitingData` means for the FDRI register on a resolved chip (spec/43_register_writes.md R183, R184):
the words of the burst are all there, inside a frame `asm` holds exactly the words of the frame in progress
(spec/10_state.md R32; log entry 5), and a frame completed in this burst is pending. -/
structure BurstInv (c : ChipDescriptor) (s : State) : Prop where
  whole   : s.fdTotal % c.frameWordLength = 0
  pending : c.frameWordLength ≤ s.fdJ → s.pending.isSome = true
  asm     : s.fdJ % c.frameWordLength ≠ 0 → s.asm.length = s.fdJ % c.frameWordLength
  phase   :
    match s.fdPhase with
    | .payload => 0 < s.budget ∧ s.budget + s.fdJ = s.fdTotal ∧ 4 * (s.budget + 1) ≤ s.remaining
    | .autoCrc => s.budget = 0 ∧ s.fdJ = s.fdTotal ∧ 4 ≤ s.remaining

/-- What `WaitingData` means: a register is active and its whole payload is still in the buffer
(spec/42_packet_framer.md R169). -/
def PayloadInv (s : State) : Prop :=
  match s.actReg with
  | none => False
  | some r =>
    if r = .fdri then
      match s.chip with
      | none => False
      | some c => BurstInv c s
    else 0 < s.budget ∧ 4 * s.budget ≤ s.remaining

/-- The slot table is there exactly when the chip is, has the chip's number of slots, and holds whole frames
(spec/10_state.md R36, spec/44_frame_store.md R233, R234). -/
def StoreInv (s : State) : Prop :=
  match s.chip, s.store with
  | none, none => True
  | some c, some t => t.length = totalSlots c ∧ ∀ f, some f ∈ t → f.length = c.frameWordLength
  | _, _ => False

/-- The coherence of a state: what the spec says holds between its elements, kept by every step. -/
structure State.Inv (s : State) : Prop where
  input_wf    : s.input.wf = true
  chips_ok    : chipTableOk s.params.chips = true
  pos_le      : s.pos ≤ s.input.len
  pos_aligned : s.pos % 4 = 0
  chip_known  : ∀ c, s.chip = some c → c ∈ s.params.chips
  store       : StoreInv s
  pending     : ∀ f, s.pending = some f → ∃ c, s.chip = some c ∧ f.length = c.frameWordLength
  budget_lt   : s.budget < 2 ^ 27
  burst_le    : s.fdJ ≤ s.fdTotal
  err_iff     : s.err.isSome = true ↔ s.st = .failed
  payload     : s.st = .waitingData → PayloadInv s

/-- What is kept of every event and record: the code is the kind's (spec/60_exceptions.md R260), only
warnings and information stand in `diag` (R270, R275), a promotable warning stands in `diag` only outside strict
mode and in a record only under it (R271), and a record names a running state (R263). -/
structure State.EventInv (s : State) : Prop where
  diag_code : ∀ e ∈ s.diag, e.code = e.kind.code
  diag_kind : ∀ e ∈ s.diag,
    e.kind = .geometryMismatch ∨ e.kind = .crcResidualNonzero ∨ e.kind = .duplicateFrameCapture ∨
      e.kind = .commandIgnored
  diag_lenient : s.params.strict = true →
    ∀ e ∈ s.diag, e.kind ≠ .geometryMismatch ∧ e.kind ≠ .crcResidualNonzero
  err_code : ∀ e, s.err = some e → e.code = e.kind.code
  err_kind : ∀ e, s.err = some e → e.kind ≠ .duplicateFrameCapture ∧ e.kind ≠ .commandIgnored
  err_strict : ∀ e, s.err = some e → e.kind = .geometryMismatch ∨ e.kind = .crcResidualNonzero → s.params.strict = true
  err_state : ∀ e, s.err = some e → e.state = .unsynced ∨ e.state = .waitingControl ∨ e.state = .waitingData

end Sys2Proof.Machine
end

