-- ==== Sys2Proof/Certificates/Slice0/Obligations.lean ====
section
/-! DEFINITION. What the provers are asked to settle, from the numbered rules of spec/. -/

open Sys2Proof Sys2Proof.Machine

/-! ## Encoding (spec/30_encoding.md) -/

/-- Decoding the word of a well-formed instruction, under the instruction's own reading, gives the
instruction back, every operand at every value (R80, R83, R89, R92); and so do its four bytes (R61). -/
def Obligations.DecodeOfEncodeIsTheInstruction : Prop :=
  ∀ (i : Instr) (rest : List Byte), i.wf = true →
    decodeWord i.context (encode i) = i ∧ decode i.context (encodeBytes i ++ rest) = .ok (i, rest)

/-- Every word has exactly one class under every reading (R80): what it decodes to is well formed, stands under
that reading, and encodes to the word, so no bit is dropped and no two rows share a word. -/
def Obligations.EncodeOfDecodeIsTheWord : Prop :=
  ∀ (c : WordContext) (w : Word),
    (decodeWord c w).wf = true ∧ encode (decodeWord c w) = w ∧
      (decodeWord c w).context = c

/-- Words written out from the layouts of R81-R92 are the rows they stand for; a Type-1 header names each register by
its address of R22. -/
def Obligations.WrittenWordsDecodeToTheirRows : Prop :=
  decodeWord .unsynced 0xAA995566#32 = .sync ∧
  decodeWord .control 0b001_00_000000000000000000000000000#32 = .noop 0 ∧
  decodeWord .control 0b001_10_000000000_01110_00_00000000001#32 = .t1wIdcode 1 ∧
  decodeWord .control 0b001_01_000000000_00111_00_00000000001#32 = .t1rStat 1 ∧
  decodeWord .control 0b010_10_000000000000000000000001001#32 = .t2 2 9 ∧
  decodeWord .control 0b001_11_000000000000000000000000000#32 = .illegalT1Op11 0 ∧
  decodeWord .control 0b001_10_000000001_00000_00_00000000001#32 = .illegalT1wFields 1 0 0 1 ∧
  decodeWord (.data .cor) 0xFFFFFFFF#32 = .dataCor 0xFFFFFFFF#32 ∧
  decodeWord .autoCrc 0x00003B61#32 = .autocrc 0x00003B61#32 ∧
  decodeWord .command 7#32 = .cmdRcrc ∧
  (∀ p ∈ [(Reg.crc, 0), (.far, 1), (.fdri, 2), (.fdro, 3), (.cmd, 4), (.ctl, 5), (.mask, 6), (.stat, 7), (.lout, 8),
      (.cor, 9), (.mfwr, 10), (.flr, 11), (.key, 12), (.cbc, 13), (.idcode, 14)],
    decodeWord .control (BitVec.ofNat 32 (0b00110 * 2 ^ 27 + p.2 * 2 ^ 13 + 1)) = .t1w p.1 1 ∧
    decodeWord .control (BitVec.ofNat 32 (0b00101 * 2 ^ 27 + p.2 * 2 ^ 13 + 1)) = .t1r p.1 1)

/-- A step of a running state whose next word decodes to `i` is `exec i`, with nothing around it: the meaning
itself moves the cursor past its word. The word is the four bytes from the cursor up, the byte at the lowest
address the most significant (R61), and so is the word the decoder reads. -/
def Obligations.StepRunsTheDecodedInstruction : Prop :=
  (∀ (s : State) (c : WordContext) (i : Instr) (rest : List Byte),
    chipTableOk s.params.chips = true → s.Stepping → 4 ≤ s.remaining → s.context = some c →
    decode c (s.input.wordBytes s.pos) = .ok (i, rest) →
      step s = exec i s) ∧
  (∀ (m : Memory) (a : Nat),
    m.wordBytes a = [m.read a, m.read (a + 1), m.read (a + 2), m.read (a + 3)] ∧
    (m.readWord a).toNat =
      (m.read a).toNat * 2 ^ 24 + (m.read (a + 1)).toNat * 2 ^ 16 + (m.read (a + 2)).toNat * 2 ^ 8 +
        (m.read (a + 3)).toNat) ∧
  (∀ (c : WordContext) (b0 b1 b2 b3 : Byte) (rest : List Byte) (w : Word),
    w.toNat = b0.toNat * 2 ^ 24 + b1.toNat * 2 ^ 16 + b2.toNat * 2 ^ 8 + b3.toNat →
      decode c (b0 :: b1 :: b2 :: b3 :: rest) = .ok (decodeWord c w, rest))

/-! ## The framer (spec/42_packet_framer.md) -/

/-- R161: in `Unsynced` a step reads one word; the sync word leads to `WaitingControl`, any other is skipped. -/
def Obligations.ScanEndsAtTheSyncWord : Prop :=
  ∀ s : State, chipTableOk s.params.chips = true → s.Stepping → s.st = .unsynced → 4 ≤ s.remaining →
    exec .sync s = .next { s with pos := s.pos + 4, st := .waitingControl } ∧
    (∀ w, exec (.scan w) s = .next { s with pos := s.pos + 4 }) ∧
    step s = .next
      { s with
        pos := s.pos + 4
        st := if s.input.readWord s.pos = 0xAA995566#32 then .waitingControl else .unsynced }

/-- R84, R164: a word with type 001 and op 00 moves the cursor and changes nothing else, whatever its other bits. -/
def Obligations.NoopChangesOnlyTheCursor : Prop :=
  ∀ s : State, chipTableOk s.params.chips = true → s.Stepping → s.st = .waitingControl → 4 ≤ s.remaining →
    (∀ ignored, exec (.noop ignored) s = .next { s with pos := s.pos + 4 }) ∧
    ((s.input.readWord s.pos).extractLsb' 29 3 = 1#3 → (s.input.readWord s.pos).extractLsb' 27 2 = 0#2 →
      step s = .next { s with pos := s.pos + 4 })

/-- R165, R166, with `enter_data` of R169: a Type-1 header of any register, WRITE or READ. A count of 0 selects
the register; a count above 0 enters the payload, FDRI's as a burst; the errors come in the order of R280. -/
def Obligations.Type1HeaderSelectsAndEnters : Prop :=
  ∀ (o : PacketOp) (r : Reg) (n : BitVec 11) (s : State),
    let i := match o with
      | .write => Instr.t1w r n
      | .read => Instr.t1r r n
    let s1 : State := { s with pos := s.pos + 4, actReg := some r, actOp := o }
    let need := n.toNat + if r = .fdri then 1 else 0
    let failed := fun (k : EventKind) (code : Nat) (info : Info) =>
      ({ s1 with
        st := .failed
        err := some { kind := k, code := code, state := s.st, offset := s.pos, info := info } } : State)
    (n = 0 → exec i s = .next s1) ∧
    (n ≠ 0 → r ≠ .fdri → 4 * need ≤ s.remaining - 4 →
      exec i s = .next { s1 with budget := n.toNat, st := .waitingData }) ∧
    (∀ c, n ≠ 0 → r = .fdri → 4 * need ≤ s.remaining - 4 → s.chip = some c → n.toNat % c.frameWordLength = 0 →
      exec i s = .next
        { s1 with
          fdTotal := n.toNat, fdJ := 0, fdPhase := .payload, asm := []
          budget := n.toNat, st := .waitingData }) ∧
    (n ≠ 0 → s.remaining - 4 < 4 * need → ∃ info, exec i s = .next (failed .truncatedInput 4 info)) ∧
    (n ≠ 0 → r = .fdri → 4 * need ≤ s.remaining - 4 → s.chip = none →
      ∃ info, exec i s = .next (failed .noChipResolved 18 info)) ∧
    (∀ c, n ≠ 0 → r = .fdri → 4 * need ≤ s.remaining - 4 → s.chip = some c → n.toNat % c.frameWordLength ≠ 0 →
      ∃ info, exec i s = .next (failed .inconsistentFrameLength 3 info))

/-- R167, with `enter_data` of R169: a Type-2 header feeds the active register, and is MalformedPacket with none. -/
def Obligations.Type2HeaderFeedsTheActiveRegister : Prop :=
  ∀ (op : BitVec 2) (n : BitVec 27) (s : State),
    let s1 : State := { s with pos := s.pos + 4 }
    let failed := fun (k : EventKind) (code : Nat) (info : Info) =>
      ({ s1 with
        st := .failed
        err := some { kind := k, code := code, state := s.st, offset := s.pos, info := info } } : State)
    (s.actReg = none → ∃ info, exec (.t2 op n) s = .next (failed .malformedPacket 2 info)) ∧
    (∀ r, s.actReg = some r →
      let need := n.toNat + if r = .fdri then 1 else 0
      (n = 0 → exec (.t2 op n) s = .next s1) ∧
      (n ≠ 0 → r ≠ .fdri → 4 * need ≤ s.remaining - 4 →
        exec (.t2 op n) s = .next { s1 with budget := n.toNat, st := .waitingData }) ∧
      (∀ c, n ≠ 0 → r = .fdri → 4 * need ≤ s.remaining - 4 → s.chip = some c → n.toNat % c.frameWordLength = 0 →
        exec (.t2 op n) s = .next
          { s1 with
            fdTotal := n.toNat, fdJ := 0, fdPhase := .payload, asm := []
            budget := n.toNat, st := .waitingData }) ∧
      (n ≠ 0 → s.remaining - 4 < 4 * need → ∃ info, exec (.t2 op n) s = .next (failed .truncatedInput 4 info)) ∧
      (n ≠ 0 → r = .fdri → 4 * need ≤ s.remaining - 4 → s.chip = none →
        ∃ info, exec (.t2 op n) s = .next (failed .noChipResolved 18 info)) ∧
      (∀ c, n ≠ 0 → r = .fdri → 4 * need ≤ s.remaining - 4 → s.chip = some c → n.toNat % c.frameWordLength ≠ 0 →
        ∃ info, exec (.t2 op n) s = .next (failed .inconsistentFrameLength 3 info)))

/-- R168: the nine ILLEGAL rows read their word and raise MalformedPacket at its offset. What
`info` holds is left to ErrorRecordsCarryTheirArgument. -/
def Obligations.IllegalHeadersRaiseMalformedPacket : Prop :=
  ∀ (i : Instr) (s : State),
    ((∃ x, i = .illegalT1Op11 x) ∨ (∃ a g v n, i = .illegalT1rFields a g v n) ∨
      (∃ a g v n, i = .illegalT1wFields a g v n) ∨ (∃ x, i = .illegalType0 x) ∨ (∃ x, i = .illegalType3 x) ∨
      (∃ x, i = .illegalType4 x) ∨ (∃ x, i = .illegalType5 x) ∨ (∃ x, i = .illegalType6 x) ∨
      (∃ x, i = .illegalType7 x)) →
    ∃ info, exec i s = .next
      { s with
        pos := s.pos + 4, st := .failed
        err := some { kind := .malformedPacket, code := 2, state := s.st, offset := s.pos, info := info } }

/-- R97: in `WaitingControl` a step raises MalformedPacket on exactly the listed words. -/
def Obligations.MalformedPacketExactlyOnIllegalWords : Prop :=
  ∀ s : State, chipTableOk s.params.chips = true → s.Stepping → s.st = .waitingControl → 4 ≤ s.remaining →
    let w := s.input.readWord s.pos
    let type := w.extractLsb' 29 3
    let op := w.extractLsb' 27 2
    ((∃ t e, step s = .next t ∧ t.st = .failed ∧ t.err = some e ∧ e.kind = .malformedPacket) ↔
      ((type ≠ 1#3 ∧ type ≠ 2#3) ∨ (type = 1#3 ∧ op = 3#2) ∨
        (type = 1#3 ∧ (op = 1#2 ∨ op = 2#2) ∧
          (w.extractLsb' 18 9 ≠ 0#9 ∨ w.extractLsb' 11 2 ≠ 0#2 ∨ 14 < (w.extractLsb' 13 5).toNat)) ∨
        (type = 2#3 ∧ s.actReg = none)))

/-! ## Register writes (spec/43_register_writes.md) -/

/-- The registers whose rule is "plain value store plus CRC fold, no side effect": FDRO, CTL, MASK, STAT, COR,
MFWR, FLR, KEY and CBC (R188, R190-R192, R194-R198), each with its address of R22. The register holds the word, the
accumulator the fold with that address, one word of the budget is gone, and nothing else changes. -/
def Obligations.PlainWriteStoresAndFolds : Prop :=
  ∀ (r : Reg) (addr : BitVec 5) (v : Word) (s : State),
    (r, addr) ∈ [(Reg.fdro, 3#5), (.ctl, 5#5), (.mask, 6#5), (.stat, 7#5), (.cor, 9#5), (.mfwr, 10#5), (.flr, 11#5),
      (.key, 12#5), (.cbc, 13#5)] →
    s.st = .waitingData → 0 < s.budget →
    ∃ t, exec (Instr.data r v) s = .next t ∧ t.readReg r = v ∧ t.crc = crcFold s.crc addr v ∧
      (∀ r', r' ≠ r → r' ≠ .crc → t.readReg r' = s.readReg r') ∧
      t = { s with
            pos := s.pos + 4, crc := t.crc, regs := t.regs, budget := s.budget - 1
            st := if s.budget = 1 then .waitingControl else .waitingData }

/-- R193: a LOUT word is stored and makes no CRC contribution. -/
def Obligations.LoutWriteIsNotFolded : Prop :=
  ∀ (v : Word) (s : State), s.st = .waitingData → 0 < s.budget →
    exec (.dataLout v) s = .next
      { s with
        pos := s.pos + 4, regs := { s.regs with lout := v }, budget := s.budget - 1
        st := if s.budget = 1 then .waitingControl else .waitingData }

/-- R181: a CRC word is folded with address 0 and not stored; the accumulator's own value leaves 0; a nonzero
residual is a warning, and in strict mode ends the step with the word folded and the budget as it was. -/
def Obligations.CrcWriteKeepsTheResidual : Prop :=
  ∀ (v : Word) (s : State), s.st = .waitingData → 0 < s.budget →
    let c := crcFold s.crc 0#5 v
    let next : State :=
      { s with
        pos := s.pos + 4, crc := c, budget := s.budget - 1
        st := if s.budget = 1 then .waitingControl else .waitingData }
    (v = s.crc.setWidth 32 → c = 0) ∧
    (c = 0 → exec (.dataCrc v) s = .next next) ∧
    (c ≠ 0 → s.params.strict = false →
      exec (.dataCrc v) s = .next
        { next with
          diag := s.diag ++ [{ kind := .crcResidualNonzero, code := 7, info := .residual c, offset := s.pos }] }) ∧
    (c ≠ 0 → s.params.strict = true →
      exec (.dataCrc v) s = .next
        { s with
          pos := s.pos + 4, crc := c, st := .failed
          err := some
            { kind := .crcResidualNonzero, code := 7, state := .waitingData, offset := s.pos, info := .residual c } })

/-- R189, R182, R200: a CMD word runs the row of its own code, a FAR word the row of the retained code, each
after the word has been read, folded and stored; then the word is counted, unless the row ended the step. -/
def Obligations.CmdAndFarWordsRunTheirCommandRow : Prop :=
  ∀ (v : Word) (s : State), s.st = .waitingData →
    let count := fun (r : Result) => thenStep r (fun u => .next u.finishPayload)
    exec (.dataCmd v) s =
      count (exec (decodeCommand v)
        { s with pos := s.pos + 4, crc := crcFold s.crc 4#5 v, regs := { s.regs with cmd := v } }) ∧
    exec (.dataFar v) s =
      count (exec (decodeCommand s.regs.cmd)
        { s with pos := s.pos + 4, crc := crcFold s.crc 1#5 v, regs := { s.regs with far := v } })

/-- R202, R217, R275: every code but 2 and 7 (NULL, WCFG, LFRM, RCFG, START, RCAP, AGHIGH, SWITCH, GRESTORE,
SHUTDOWN, GCAPTURE, DESYNCH and every code from 14 up) appends CommandIgnored at the offset of the word that
dispatched it (`off`, when the cursor stands behind it) and changes nothing else, in strict mode too. -/
def Obligations.IgnoredCommandsOnlyLog : Prop :=
  ∀ (code : Word) (s : State), code ≠ 2#32 → code ≠ 7#32 →
    let event := fun off => ({ kind := .commandIgnored, code := 32, info := .command code, offset := off } : DiagEvent)
    (∀ off, s.pos = off + 4 → exec (decodeCommand code) s = .next { s with diag := s.diag ++ [event off] }) ∧
    (s.st = .waitingData → 0 < s.budget →
      exec (.dataCmd code) s = .next
        { s with
          pos := s.pos + 4, crc := crcFold s.crc 4#5 code, regs := { s.regs with cmd := code }
          diag := s.diag ++ [event s.pos], budget := s.budget - 1
          st := if s.budget = 1 then .waitingControl else .waitingData }) ∧
    (∀ v, s.st = .waitingData → 0 < s.budget → s.regs.cmd = code →
      exec (.dataFar v) s = .next
        { s with
          pos := s.pos + 4, crc := crcFold s.crc 1#5 v, regs := { s.regs with far := v }
          diag := s.diag ++ [event s.pos], budget := s.budget - 1
          st := if s.budget = 1 then .waitingControl else .waitingData })

/-- R204: RCRC clears the accumulator after the fold of the word that dispatched it, by a CMD word or again by
every FAR word while CMD holds 7. -/
def Obligations.CrcResetDiscardsItsOwnWrite : Prop :=
  ∀ s : State,
    exec .cmdRcrc s = .next { s with crc := 0 } ∧
    (s.st = .waitingData → 0 < s.budget →
      exec (.dataCmd 7#32) s = .next
        { s with
          pos := s.pos + 4, crc := 0, regs := { s.regs with cmd := 7#32 }, budget := s.budget - 1
          st := if s.budget = 1 then .waitingControl else .waitingData }) ∧
    (∀ v, s.st = .waitingData → 0 < s.budget → s.regs.cmd = 7#32 →
      exec (.dataFar v) s = .next
        { s with
          pos := s.pos + 4, crc := 0, regs := { s.regs with far := v }, budget := s.budget - 1
          st := if s.budget = 1 then .waitingControl else .waitingData })

/-- R203, with the order of the checks of R230: MFWR copies the pending frame into the slot of the current FAR
and keeps it pending; a filled slot is logged and overwritten (R231); each error ends the step and leaves the
store as it was. `off` is the offset of the word that dispatched it, which has been read. -/
def Obligations.MfwrCapturesAtTheCurrentFar : Prop :=
  ∀ (s : State) (off : Nat), s.pos = off + 4 →
    let failed := fun (k : EventKind) (code : Nat) (info : Info) =>
      ({ s with
        st := .failed
        err := some { kind := k, code := code, state := s.st, offset := off, info := info } } : State)
    (s.chip = none → ∃ info, exec .cmdMfwr s = .next (failed .noChipResolved 18 info)) ∧
    (∀ c, s.chip = some c →
      (s.pending = none → ∃ info, exec .cmdMfwr s = .next (failed .noPendingFrame 19 info)) ∧
      (∀ f, s.pending = some f →
        ((farDecode s.regs.far).block = 3#2 →
          ∃ info, exec .cmdMfwr s = .next (failed .unrecognizedBlock 16 info)) ∧
        (∀ k, slotOf c s.regs.far = some k →
          (¬ (k.column < c.columnCount.get k.region ∧ k.frame < c.frameCount.get k.region) →
            ∃ info, exec .cmdMfwr s = .next (failed .outOfGeometry 17 info)) ∧
          (∀ t, k.column < c.columnCount.get k.region → k.frame < c.frameCount.get k.region → s.store = some t →
            exec .cmdMfwr s = .next
              { s with
                store := some (slotWrite c t k f)
                diag := if (slotRead c t k).isSome then
                    s.diag ++ [{ kind := .duplicateFrameCapture, code := 8, info := .slot k, offset := off }]
                  else s.diag }))))

/-- R234, and the one-slot effect of R230: after a capture in a coherent state the host reads the frame back from
its slot, and every other lookup answers as before. -/
def Obligations.CaptureFillsOneSlot : Prop :=
  ∀ (s : State) (c : ChipDescriptor) (k : SlotKey) (f : Frame),
    s.Inv → s.chip = some c → s.pending = some f → slotOf c s.regs.far = some k →
    k.column < c.columnCount.get k.region → k.frame < c.frameCount.get k.region →
    ∃ t, exec .cmdMfwr s = .next t ∧ lookupFrame t k = .frame (frameBytes f) ∧
      (frameBytes f).length = 4 * c.frameWordLength ∧ ∀ k', k' ≠ k → lookupFrame t k' = lookupFrame s k'

/-- R199, R219, R220: an IDCODE word is folded and stored; then it resolves the chip, allocates the empty slot
table and checks FLR; the same chip again changes nothing; another chip and an unknown word are fatal. -/
def Obligations.IdcodeWordResolvesTheChip : Prop :=
  ∀ (v : Word) (s : State), chipTableOk s.params.chips = true → s.st = .waitingData → 0 < s.budget →
    let s1 : State := { s with pos := s.pos + 4, crc := crcFold s.crc 14#5 v, regs := { s.regs with idcode := v } }
    let count := fun (u : State) =>
      ({ u with budget := s.budget - 1, st := if s.budget = 1 then .waitingControl else .waitingData } : State)
    let failed := fun (u : State) (k : EventKind) (code : Nat) (i : Info) =>
      ({ u with
        st := .failed
        err := some { kind := k, code := code, state := .waitingData, offset := s.pos, info := i } } : State)
    ((∀ c ∈ s.params.chips, c.idcode ≠ v) →
      exec (.dataIdcode v) s = .next (failed s1 .unrecognizedChip 5 (.idcode v))) ∧
    (∀ c ∈ s.params.chips, c.idcode = v →
      (s.chip = some c → exec (.dataIdcode v) s = .next (count s1)) ∧
      (∀ c0, s.chip = some c0 → c0 ≠ c →
        exec (.dataIdcode v) s = .next (failed s1 .chipChanged 20 (.idcode v))) ∧
      (s.chip = none →
        let s2 : State := { s1 with chip := some c, store := some (List.replicate (totalSlots c) none) }
        let info := Info.geometry s.regs.flr c.frameWordLength
        (s.regs.flr.toNat + 1 = c.frameWordLength → exec (.dataIdcode v) s = .next (count s2)) ∧
        (s.regs.flr.toNat + 1 ≠ c.frameWordLength → s.params.strict = false →
          exec (.dataIdcode v) s = .next
            (count { s2 with
              diag := s.diag ++ [{ kind := .geometryMismatch, code := 6, info := info, offset := s.pos }] })) ∧
        (s.regs.flr.toNat + 1 ≠ c.frameWordLength → s.params.strict = true →
          exec (.dataIdcode v) s = .next (failed s2 .geometryMismatch 6 info))))

/-- R184: one FDRI payload word. At the first word of a later frame the previous frame is captured at its own
FAR before the read, and an error there leaves the word unread; the word is read, folded, stored and appended;
the last word of a frame makes it pending and advances FAR once; then the word is counted. A frame's last word
leaves its words in `asm`, as the pseudocode of R184 does; how the bound of R32 reads beside that is log entry 5
(DEDUCED), and the statement after this one says it. -/
def Obligations.FdriWordAssemblesAndCaptures : Prop :=
  ∀ (s : State) (c : ChipDescriptor) (v : Word), s.st = .waitingData → s.chip = some c → 0 < c.frameWordLength →
    0 < s.budget → s.fdPhase = .payload →
    let j := s.fdJ % c.frameWordLength
    let failed := fun (u : State) (k : EventKind) (code : Nat) (info : Info) =>
      ({ u with
        st := .failed
        err := some { kind := k, code := code, state := .waitingData, offset := s.pos, info := info } } : State)
    (0 < s.fdJ → j = 0 → s.pending = none → ∃ info, exec (.dataFdri v) s = .next (failed s .noPendingFrame 19 info)) ∧
    (∀ f, 0 < s.fdJ → j = 0 → s.pending = some f → (farDecode s.pendFar).block = 3#2 →
      ∃ info, exec (.dataFdri v) s = .next (failed s .unrecognizedBlock 16 info)) ∧
    (∀ f k, 0 < s.fdJ → j = 0 → s.pending = some f → slotOf c s.pendFar = some k →
      ¬ (k.column < c.columnCount.get k.region ∧ k.frame < c.frameCount.get k.region) →
      ∃ info, exec (.dataFdri v) s = .next (failed s .outOfGeometry 17 info)) ∧
    (∀ s1 : State,
      ((j ≠ 0 ∧ s1 = s) ∨
        (s.fdJ = 0 ∧ s1 = { s with pendFar := s.regs.far, asm := [] }) ∨
        (0 < s.fdJ ∧ j = 0 ∧ ∃ f k t, s.pending = some f ∧ slotOf c s.pendFar = some k ∧
          k.column < c.columnCount.get k.region ∧ k.frame < c.frameCount.get k.region ∧ s.store = some t ∧
          s1 = { s with
                 store := some (slotWrite c t k f)
                 diag := if (slotRead c t k).isSome then
                     s.diag ++ [{ kind := .duplicateFrameCapture, code := 8, info := .slot k, offset := s.pos }]
                   else s.diag
                 pendFar := s.regs.far, asm := [] })) →
      let s2 : State :=
        { s1 with
          pos := s.pos + 4, crc := crcFold s.crc 2#5 v, regs := { s.regs with fdri := v }, asm := s1.asm ++ [v] }
      let count := fun (u : State) =>
        ({ u with
          fdJ := s.fdJ + 1, budget := s.budget - 1
          fdPhase := if s.budget = 1 then .autoCrc else .payload } : State)
      (j + 1 ≠ c.frameWordLength → exec (.dataFdri v) s = .next (count s2)) ∧
      (∀ w, j + 1 = c.frameWordLength → farInc s.params.frameStepEntry c s.regs.far = some w →
        exec (.dataFdri v) s = .next
          (count { s2 with pending := some s2.asm, regs := { s2.regs with far := w } })) ∧
      (j + 1 = c.frameWordLength → farInc s.params.frameStepEntry c s.regs.far = none →
        ∃ info, exec (.dataFdri v) s = .next (failed { s2 with pending := some s2.asm } .unrecognizedBlock 16 info)))

/-- The burst state of R32 in a coherent state, the words of the frame in progress read as the first `fd_j mod F` of
`asm` (log entry 5, DEDUCED): there are 0 to F - 1 of them, a payload word is appended to them, and with the last
one they become the pending frame. -/
def Obligations.AssemblyHoldsTheFrameInProgress : Prop :=
  ∀ (s : State) (c : ChipDescriptor), s.Inv → s.st = .waitingData → s.actReg = some .fdri → s.chip = some c →
    s.fdJ ≤ s.fdTotal ∧ (s.frameInProgress c).length = s.fdJ % c.frameWordLength ∧
    (s.frameInProgress c).length < c.frameWordLength ∧
    ∀ t, s.Stepping → s.fdPhase = .payload → step s = .next t → t.st ≠ .failed →
      let ws := s.frameInProgress c ++ [s.input.readWord s.pos]
      t.fdJ = s.fdJ + 1 ∧
      (ws.length ≠ c.frameWordLength → t.frameInProgress c = ws ∧ t.pending = s.pending) ∧
      (ws.length = c.frameWordLength → t.frameInProgress c = [] ∧ t.pending = some ws)

/-- R187: the autoCRC word is folded with address 0, stored nowhere, neither checked nor counted, and ends the
payload; a correct one leaves 0. -/
def Obligations.AutoCrcWordEndsTheBurst : Prop :=
  ∀ (w : Word) (s : State),
    exec (.autocrc w) s = .next { s with pos := s.pos + 4, crc := crcFold s.crc 0#5 w, st := .waitingControl } ∧
    (w = s.crc.setWidth 32 → crcFold s.crc 0#5 w = 0) ∧
    (chipTableOk s.params.chips = true → s.Stepping → s.st = .waitingData → s.actReg = some .fdri →
      s.fdPhase = .autoCrc → 4 ≤ s.remaining → s.input.readWord s.pos = w →
      step s = .next { s with pos := s.pos + 4, crc := crcFold s.crc 0#5 w, st := .waitingControl })

/-! ## The CRC unit (spec/40_crc.md) -/

/-- R114: the fold is linear over GF(2) in all its inputs together. -/
def Obligations.FoldIsLinear : Prop :=
  ∀ (c1 c2 : BitVec 16) (a1 a2 : BitVec 5) (v1 v2 : Word),
    crcFold (c1 ^^^ c2) (a1 ^^^ a2) (v1 ^^^ v2) = crcFold c1 a1 v1 ^^^ crcFold c2 a2 v2

/-- R115: the accumulator's own value settles to zero; below 2^16 nothing else does; above, the values that
differ from it by a zero of the fold do, and 0x14003 is the smallest nonzero one. -/
def Obligations.ZeroResidual : Prop :=
  (∀ c : BitVec 16, crcFold c 0#5 (c.setWidth 32) = 0) ∧
  (∀ (c : BitVec 16) (v : Word), v.toNat < 2 ^ 16 → (crcFold c 0#5 v = 0 ↔ v = c.setWidth 32)) ∧
  (∀ (c : BitVec 16) (k : Word), crcFold 0 0#5 k = 0 → crcFold c 0#5 (c.setWidth 32 ^^^ k) = 0) ∧
  crcFold 0 0#5 0x14003#32 = 0 ∧
  (∀ k : Word, k ≠ 0 → k.toNat < 0x14003 → crcFold 0 0#5 k ≠ 0)

/-- R113: the 32 data steps are the byte-wise CRC-16/ARC update over the word's bytes from bits [7:0] up, and
the nine ASCII bytes of the standard check give 0xBB3D. -/
def Obligations.DataStepsAreByteWiseArc : Prop :=
  (∀ (c : BitVec 16) (v : Word),
    crcBits c (bitsLsbFirst v) =
      arcBytes c [v.extractLsb' 0 8, v.extractLsb' 8 8, v.extractLsb' 16 8, v.extractLsb' 24 8]) ∧
  ([0x31#8, 0x32#8, 0x33#8, 0x34#8, 0x35#8, 0x36#8, 0x37#8, 0x38#8, 0x39#8].foldl
      (fun c b => crcBits c (bitsLsbFirst b)) (0 : BitVec 16)) = 0xBB3D#16

/-! ## The FAR codec (spec/41_far_codec.md) -/

/-- R130, R131: where each field stands in the word, by the arithmetic of the word as a number; R132: the codec's
round trip, and the other direction up to bits [31:27]. -/
def Obligations.FarCodecRoundTrip : Prop :=
  (∀ w : Word,
    let f := farDecode w
    f.bitOffset.toNat = w.toNat % 2 ^ 9 ∧ f.minor.toNat = w.toNat / 2 ^ 9 % 2 ^ 8 ∧
      f.major.toNat = w.toNat / 2 ^ 17 % 2 ^ 8 ∧ f.block.toNat = w.toNat / 2 ^ 25 % 2 ^ 2) ∧
  (∀ f : FarFields,
    (farEncode f).toNat =
      f.block.toNat * 2 ^ 25 + f.major.toNat * 2 ^ 17 + f.minor.toNat * 2 ^ 9 + f.bitOffset.toNat) ∧
  (∀ f : FarFields, farDecode (farEncode f) = f) ∧
  (∀ w : Word, farEncode (farDecode w) = w &&& 0x07FFFFFF#32)

/-- R134, R135, R136, R137: the slot of a FAR word, its block, major and minor read from the word as a number (R130).
The ranges of a block-0 major do not meet. `none` is the answer on block 3, for which the uses raise
UnrecognizedBlock. Bits [8:0] and [31:27] select nothing. -/
def Obligations.SlotOfAFarWord : Prop :=
  ∀ (c : ChipDescriptor) (w : Word),
    let block := w.toNat / 2 ^ 25 % 2 ^ 2
    let major := w.toNat / 2 ^ 17 % 2 ^ 8
    let minor := w.toNat / 2 ^ 9 % 2 ^ 8
    let clb := c.columnCount.clb
    let is := fun (r : Region) (column : Nat) => slotOf c w = some { region := r, column := column, frame := minor }
    (block = 0 →
      (major = 0 → is .gclk 0) ∧
      (major = 1 → is .iob 0) ∧
      (major = 2 → is .ioi 0) ∧
      (major = clb + 3 → is .ioi 1) ∧
      (major = clb + 4 → is .iob 1) ∧
      (3 ≤ major → major ≠ clb + 3 → major ≠ clb + 4 → is .clb (major - 3)) ∧
      (clb + 4 < major → ∀ k, slotOf c w = some k → inGeometry c k = false)) ∧
    (block = 1 → is .bram major) ∧
    (block = 2 → is .bramInt major) ∧
    (block = 3 → slotOf c w = none) ∧
    regionOf c (farDecode w).block (farDecode w).major = (slotOf c w).map (fun k => k.region) ∧
    (∀ k, slotOf c w = some k →
      (inGeometry c k = true ↔ k.column < c.columnCount.get k.region ∧ minor < c.frameCount.get k.region))

/-- R141, field by field: the odometer from the minor stage and from the bit stage. Every comparison is on the
unreduced sum, every field wraps (R144), and the region is the one before the increment (R142). A bit stage that
does not carry looks no region up, so it holds of block 3 too; that the other stages raise there is the next
statement. -/
def Obligations.FarIncrementIsTheOdometer : Prop :=
  ∀ (c : ChipDescriptor) (w : Word),
    let f := farDecode w
    (f.bitOffset.toNat + 1 ≠ c.frameWordLength →
      ∃ w', farInc .bit c w = some w' ∧
        let f' := farDecode w'
        w'.extractLsb' 27 5 = 0#5 ∧ f'.bitOffset.toNat = (f.bitOffset.toNat + 1) % 512 ∧ f'.minor = f.minor ∧
          f'.major = f.major ∧ f'.block = f.block) ∧
    ∀ r, regionOf c f.block f.major = some r →
    let minorStage := fun (o : BitVec 9) (w' : Word) =>
      let f' := farDecode w'
      w'.extractLsb' 27 5 = 0#5 ∧ f'.bitOffset = o ∧
      (f.minor.toNat + 1 ≠ c.frameCount.get r →
        f'.minor.toNat = (f.minor.toNat + 1) % 256 ∧ f'.major = f.major ∧ f'.block = f.block) ∧
      (f.minor.toNat + 1 = c.frameCount.get r →
        f'.minor = 0 ∧
        (((r = .iob ∧ f.major.toNat + 1 = c.columnCount.clb + 5) ∨
            (r = .bram ∧ f.major.toNat + 1 = c.columnCount.bram)) →
          f'.major = 0 ∧ f'.block.toNat = (f.block.toNat + 1) % 4) ∧
        (¬ ((r = .iob ∧ f.major.toNat + 1 = c.columnCount.clb + 5) ∨
            (r = .bram ∧ f.major.toNat + 1 = c.columnCount.bram)) →
          f'.major.toNat = (f.major.toNat + 1) % 256 ∧ f'.block = f.block))
    (∃ w', farInc .minor c w = some w' ∧ minorStage f.bitOffset w') ∧
    (f.bitOffset.toNat + 1 = c.frameWordLength → ∃ w', farInc .bit c w = some w' ∧ minorStage 0 w')

/-- R145, R146: an increment's result has bits [31:27] zero; it fails exactly on block 3, under BIT only when
bit_offset carries; nothing else fails. -/
def Obligations.FarIncrementFailsOnlyOnBlockThree : Prop :=
  ∀ (c : ChipDescriptor) (w : Word),
    (farInc .minor c w = none ↔ (farDecode w).block = 3#2) ∧
    (farInc .bit c w = none ↔
      ((farDecode w).block = 3#2 ∧ (farDecode w).bitOffset.toNat + 1 = c.frameWordLength)) ∧
    (∀ e w', farInc e c w = some w' → w'.extractLsb' 27 5 = 0#5)

/-! ## The frame store and its queries (spec/44_frame_store.md) -/

/-- R241, R232: the traversal of an allocated store yields every slot once, in the order of the flat index, an
empty slot as absent; it yields as many tuples as the table has slots. -/
def Obligations.TraversalIsInFlatIndexOrder : Prop :=
  ∀ (s : State) (c : ChipDescriptor) (t : SlotTable), s.chip = some c → s.store = some t →
    ∃ l, traverse s = .ok l ∧
      l.map (fun p => flatIndex c p.1) = List.range (totalSlots c) ∧
      (∀ k, (k.column < c.columnCount.get k.region ∧ k.frame < c.frameCount.get k.region) ↔ k ∈ l.map (fun p => p.1)) ∧
      (∀ p ∈ l, p.2 = slotRead c t p.1)

/-- R240, R235: the four answers of `lookup_frame`; the bytes are the whole frame's, each word's most significant
byte first (R66). -/
def Obligations.LookupAnswersFourWays : Prop :=
  ∀ (s : State) (k : SlotKey), s.Inv →
    (s.store = none → lookupFrame s k = .refused .noStore) ∧
    (∀ c t, s.chip = some c → s.store = some t →
      (¬ (k.column < c.columnCount.get k.region ∧ k.frame < c.frameCount.get k.region) →
        lookupFrame s k = .refused .outOfGeometry) ∧
      (k.column < c.columnCount.get k.region → k.frame < c.frameCount.get k.region →
        (slotRead c t k = none → lookupFrame s k = .notCaptured) ∧
        (∀ f, slotRead c t k = some f →
          lookupFrame s k = .frame (f.flatMap bytesOfWord) ∧
          (f.flatMap bytesOfWord).length = 4 * c.frameWordLength ∧
          ∀ (i j : Nat) (w : Word), f[i]? = some w → j < 4 →
            ∃ b : Byte, (f.flatMap bytesOfWord)[4 * i + j]? = some b ∧
              b.toNat = w.toNat / 2 ^ (8 * (3 - j)) % 2 ^ 8)))

/-! ## The session (spec/42_packet_framer.md, spec/70_reset_and_hazards.md) -/

/-- R160: `start` leaves `Idle` and reads no word; without it a step in `Idle` does nothing; in any other state
its level makes no difference. -/
def Obligations.StartActsInIdleOnly : Prop :=
  ∀ s : State, chipTableOk s.params.chips = true → s.pins.rst = false →
    (s.st = .idle → s.pins.start = true → step s = .next { s with st := .unsynced }) ∧
    (s.st = .idle → s.pins.start = false → step s = .next s) ∧
    (∀ b t, s.st ≠ .idle → step s = .next t →
      step { s with pins := { s.pins with start := b } } = .next { t with pins := { s.pins with start := b } })

/-- R162, R163: fewer than four bytes are the end of input: DesyncError at the cursor in `Unsynced`, a clean
`Done` in `WaitingControl`. -/
def Obligations.EndOfInputEndsTheSession : Prop :=
  ∀ s : State, chipTableOk s.params.chips = true → s.Stepping → s.remaining < 4 →
    (s.st = .unsynced → ∃ info, step s = .next
      { s with
        st := .failed
        err := some { kind := .desyncError, code := 1, state := .unsynced, offset := s.pos, info := info } }) ∧
    (s.st = .waitingControl → step s = .next { s with st := .done })

/-- R170, R290, R45: in `Done` and `Failed` no level of `start` and `step` has an effect; `rst`, held alone, acts in
every state and leaves every element at its reset value, the buffer and the parameters as they were. -/
def Obligations.OnlyResetLeavesATerminalState : Prop :=
  ∀ s : State, chipTableOk s.params.chips = true →
    (s.Terminal → s.pins.rst = false → step s = .next s) ∧
    (s.pins.rst = true → s.pins.start = false → s.pins.step = false → step s = .next
      { st := .idle, pos := 0, crc := 0, regs := RegFile.zero, actReg := none, actOp := .write, budget := 0,
        fdTotal := 0, fdJ := 0, fdPhase := .payload, asm := [], pending := none, pendFar := 0, chip := none,
        store := none, diag := [], err := none, params := s.params, input := s.input, pins := s.pins })

/-- With `rst` held the levels of `start` and `step` make no difference. That `rst` acts before them is the model's
choice, log entry 2 (DESIGN CHOICE): the spec names no order among the pins. -/
def Obligations.RstActsBeforeStartAndStep : Prop :=
  ∀ (s : State) (b d : Bool), chipTableOk s.params.chips = true → s.pins.rst = true →
    step { s with pins := { s.pins with start := b, step := d } } = .next
      { st := .idle, pos := 0, crc := 0, regs := RegFile.zero, actReg := none, actOp := .write, budget := 0,
        fdTotal := 0, fdJ := 0, fdPhase := .payload, asm := [], pending := none, pendFar := 0, chip := none,
        store := none, diag := [], err := none, params := s.params, input := s.input
        pins := { rst := true, start := b, step := d } }

/-- A chip table is refused exactly when it breaks a constraint of R9, and nothing else is refused. That every step
refuses it, and that a `frame_word_length` of 2^32 or more breaks R9's `u32`, is the model's reading, log entry 9
(DEDUCED). -/
def Obligations.MalformedChipTableIsRefused : Prop :=
  ∀ s : State,
    (∃ x, step s = .refused x) ↔
      ¬ ((∀ c ∈ s.params.chips,
            1 ≤ c.frameWordLength ∧ c.frameWordLength < 2 ^ 32 ∧
            (∀ r : Region, 1 ≤ c.frameCount.get r ∧ c.frameCount.get r ≤ 256) ∧
            c.columnCount.clb + 5 ≤ 255 ∧ c.columnCount.bram ≤ 256 ∧ c.columnCount.bramInt ≤ 256 ∧
            1 ≤ c.columnCount.gclk) ∧
          (s.params.chips.map (fun c => c.idcode)).Nodup)

/-! ## Rules of the whole machine -/

/-- R172: the transitions of `st`, with what each needs, from a coherent state. -/
def Obligations.StatusMovesByTheTable : Prop :=
  ∀ s t : State, s.Inv → step s = .next t → s.pins.rst = false →
    t.st = s.st ∨
    (s.st = .idle ∧ t.st = .unsynced ∧ s.pins.start = true) ∨
    (s.st = .unsynced ∧ t.st = .waitingControl ∧ 4 ≤ s.remaining ∧ s.input.readWord s.pos = 0xAA995566#32) ∨
    (s.st = .unsynced ∧ t.st = .failed ∧ s.remaining < 4) ∨
    (s.st = .waitingControl ∧ t.st = .done ∧ s.remaining < 4) ∨
    (s.st = .waitingControl ∧ t.st = .waitingData ∧ 4 ≤ s.remaining ∧ t.actReg.isSome = true ∧ 0 < t.budget) ∨
    (s.st = .waitingControl ∧ t.st = .failed ∧ 4 ≤ s.remaining) ∨
    (s.st = .waitingData ∧ t.st = .waitingControl ∧ t.budget = 0) ∨
    (s.st = .waitingData ∧ t.st = .failed)

/-- R21: outside `rst` the cursor moves by nothing or by exactly four, and from a coherent state it stays inside
the buffer. -/
def Obligations.CursorMovesByWholeWords : Prop :=
  ∀ s t : State, step s = .next t → s.pins.rst = false → s.pos ≤ s.input.len →
    (t.pos = s.pos ∨ t.pos = s.pos + 4) ∧ t.pos ≤ t.input.len

/-- R43, R60: no step writes the parameters or the buffer, with `rst` held too. -/
def Obligations.NoStepWritesTheHostsInputs : Prop :=
  ∀ s t : State, step s = .next t → t.params = s.params ∧ t.input = s.input

/-- No step writes the levels of the pins: the host drives them. That State holds them is the model's choice, log
entry 2 (DESIGN CHOICE). -/
def Obligations.NoStepDrivesThePins : Prop :=
  ∀ s t : State, step s = .next t → t.pins = s.pins

/-- R37: outside `rst` a step only appends to `diag`, and no step reads it: with another list in its place the
step appends the same events and does the same to everything else. -/
def Obligations.DiagIsAppendedAndNeverRead : Prop :=
  ∀ s t : State, step s = .next t → s.pins.rst = false →
    ∃ es, t.diag = s.diag ++ es ∧
      ∀ d, step { s with diag := d } = .next { t with diag := d ++ es }

/-- R30: `act_op` changes no behaviour: with the other flag every step does the same to everything else. -/
def Obligations.PacketOpChangesNothing : Prop :=
  ∀ (s t : State) (o : PacketOp), step s = .next t →
    ∃ o', step { s with actOp := o } = .next { t with actOp := o' }

/-- R38, and `raise` of R262: outside `rst` the step that enters `Failed` sets the record, with the state and the
cursor of its own start and the code of its kind; no other step touches it. -/
def Obligations.FailureRecordNamesItsStep : Prop :=
  ∀ s t : State, step s = .next t → s.pins.rst = false →
    (s.st ≠ .failed → t.st = .failed →
      ∃ k i, t.err = some { kind := k, code := k.code, state := s.st, offset := s.pos, info := i }) ∧
    (t.st ≠ .failed ∨ s.st = .failed → t.err = s.err)

/-- What `info` holds, which the spec calls informative only (R263; log entry 6): the header word for every error of
a header; for an unknown block the block (R134) with the FAR word it stands in, which is `pend_far` for an in-burst
capture and FAR for MFWR and for a burst's advance; and the key of a slot out of geometry. -/
def Obligations.ErrorRecordsCarryTheirArgument : Prop :=
  (∀ (w : Word) (s t : State), exec (classify w) s = .next t → s.err = none → ∀ e, t.err = some e → e.info = .header w) ∧
  (∀ (s t : State) (e : ErrorRecord), exec .cmdMfwr s = .next t → s.err = none → t.err = some e →
    (e.kind = .unrecognizedBlock → e.info = .block 3#2 s.regs.far) ∧
    (e.kind = .outOfGeometry → ∃ c k, s.chip = some c ∧ slotOf c s.regs.far = some k ∧ e.info = .slot k)) ∧
  (∀ (v : Word) (s t : State) (e : ErrorRecord), exec (.dataFdri v) s = .next t → s.st = .waitingData → s.err = none →
    t.err = some e →
    (e.kind = .unrecognizedBlock →
      (t.pos = s.pos ∧ e.info = .block 3#2 s.pendFar) ∨ (t.pos = s.pos + 4 ∧ e.info = .block 3#2 s.regs.far)) ∧
    (e.kind = .outOfGeometry → ∃ c k, s.chip = some c ∧ slotOf c s.pendFar = some k ∧ e.info = .slot k))

/-- R35, R36, R233: outside `rst` a resolved chip stays; a chip is resolved only by an IDCODE word that is the
idcode of an entry of the table, and the same step allocates its table, every slot empty. -/
def Obligations.ChipIsResolvedOnce : Prop :=
  ∀ s t : State, step s = .next t → s.pins.rst = false →
    (∀ c, s.chip = some c → t.chip = some c) ∧
    (∀ c, s.chip = none → t.chip = some c →
      s.st = .waitingData ∧ s.actReg = some .idcode ∧ c ∈ s.params.chips ∧ t.regs.idcode = c.idcode ∧
        t.store = some (List.replicate (totalSlots c) none))

/-- R244, R230: from a coherent state, outside `rst`, a step keeps the table's size. It writes the pending frame into
the slot of `far` exactly where it captures: at the first FDRI word of a later frame, `far` being `pend_far` (R184); at
a CMD word of code 2, `far` being FAR (R203); and at a FAR word while CMD holds 2, `far` being the word (R182). Every
other slot, and the whole table at any other step, is as it was; so no slot is emptied, and the number of filled
slots never falls and rises by at most one. -/
def Obligations.FilledSlotsNeverDecrease : Prop :=
  ∀ (s t : State) (a : SlotTable), s.Inv → step s = .next t → s.pins.rst = false → s.store = some a →
    let word := s.input.readWord s.pos
    let captures := fun (c : ChipDescriptor) (k : SlotKey) (f : Frame) =>
      s.st = .waitingData ∧ s.pins.step = true ∧ s.chip = some c ∧ s.pending = some f ∧
      k.column < c.columnCount.get k.region ∧ k.frame < c.frameCount.get k.region ∧
      ((s.actReg = some .fdri ∧ s.fdPhase = .payload ∧ 0 < s.fdJ ∧ s.fdJ % c.frameWordLength = 0 ∧
          slotOf c s.pendFar = some k) ∨
        (s.actReg = some .cmd ∧ word = 2#32 ∧ slotOf c s.regs.far = some k) ∨
        (s.actReg = some .far ∧ s.regs.cmd = 2#32 ∧ slotOf c word = some k))
    ∃ b : SlotTable, t.store = some b ∧ b.length = a.length ∧
      (∀ c k f, captures c k f →
        b[flatIndex c k]? = some (some f) ∧ ∀ i : Nat, i ≠ flatIndex c k → b[i]? = a[i]?) ∧
      ((∀ c k f, ¬ captures c k f) → b = a) ∧
      (∀ (i : Nat) (f : Frame), a[i]? = some (some f) → ∃ g : Frame, b[i]? = some (some g)) ∧
      filledSlots a ≤ filledSlots b ∧ filledSlots b ≤ filledSlots a + 1

/-- R22, R117: outside `rst` a register changes only at a payload word addressed to it, but for the accumulator
(any payload word but LOUT's) and FAR (also FDRI's words). -/
def Obligations.RegistersChangeOnlyWhenAddressed : Prop :=
  ∀ (s t : State) (r : Reg), step s = .next t → s.pins.rst = false → t.readReg r ≠ s.readReg r →
    s.st = .waitingData ∧
      (s.actReg = some r ∨ (r = .crc ∧ s.actReg ≠ some .lout) ∨ (r = .far ∧ s.actReg = some .fdri))

/-! ## Invariants, progress and termination -/

/-- The coherence of a state holds right after reset, for every parameter table that R9 admits and every buffer a
host can supply. The buffer's canonical form is the model's own (log entry 3). -/
def Obligations.CoherenceHoldsAtReset : Prop :=
  State.reset.Inv ∧
  ∀ (p : Params) (bytes : List Byte) (pins : Pins), chipTableOk p.chips = true →
    (State.resetWith p (Memory.ofBytes bytes) pins).Inv

/-- Every step keeps the coherence of a state: the cursor inside the buffer and aligned, the payload of
`WaitingData` still in the buffer, the burst's counters and frames whole, inside a frame `asm` the words of the frame in
progress (log entry 5), the table of the chip's size with whole frames, an error record exactly in `Failed`. -/
def Obligations.CoherenceIsKept : Prop :=
  ∀ s t : State, s.Inv → step s = .next t → t.Inv

/-- R260, R263, R270, R271: every step keeps what is said of events and records: their codes, that only warnings
and information stand in `diag`, that strict mode leaves no promotable warning there and only strict mode makes a
record of one, and that a record names a running state. -/
def Obligations.EventsStayWellFormed : Prop :=
  State.reset.EventInv ∧ ∀ s t : State, s.EventInv → step s = .next t → t.EventInv

/-- No step of a coherent state stops: no word of any stream is refused and no fault of the model is met. -/
def Obligations.CoherentStatesNeverStop : Prop :=
  ∀ s : State, s.Inv → ∃ t, step s = .next t

/-- R297: from the acceptance of `start`, a stepped session is in `Done` or `Failed` within L/4 + 2 steps. -/
def Obligations.EverySessionEnds : Prop :=
  ∀ s : State, s.Inv → s.st = .unsynced → s.pos = 0 → s.Stepping →
    ∃ k t, k ≤ s.input.len / 4 + 2 ∧ Host.Core.run Sys2Proof.core k s = .next t ∧ State.Terminal t
end

