-- ==== Sys2Proof/Laws/Crc.lean ====
section
/-! SUPPORT. The accumulator as a shift register fed a list of bits. -/

namespace Sys2Proof.Machine

@[simp] theorem crcBits_nil (c : BitVec 16) : crcBits c [] = c := rfl

@[simp] theorem crcBits_cons (c : BitVec 16) (b : Bool) (bits : List Bool) :
    crcBits c (b :: bits) = crcBits (crcStep c b) bits := rfl

theorem crcBits_append (c : BitVec 16) (xs ys : List Bool) : crcBits c (xs ++ ys) = crcBits (crcBits c xs) ys :=
  List.foldl_append

/-- The fold is one run of 37 bits: the value's, then the address's (R111). -/
theorem crcFold_eq (c : BitVec 16) (a : BitVec 5) (v : Word) :
    crcFold c a v = crcBits c (bitsLsbFirst v ++ bitsLsbFirst a) := (crcBits_append c _ _).symm

@[simp] theorem crcUpdate_lout (c : BitVec 16) (v : Word) : crcUpdate c Reg.lout.addr v = c := if_pos rfl

/-- Every register but LOUT is folded (R112). -/
theorem crcUpdate_of_ne (c : BitVec 16) (r : Reg) (v : Word) (h : r ≠ .lout) : crcUpdate c r.addr v = crcFold c r.addr v := by
  cases r <;> first | exact absurd rfl h | rfl

end Sys2Proof.Machine
end

