-- ==== Sys2Proof/Laws/Encoding.lean ====
section
/-! SUPPORT. The bit slices of the header layouts, and what the decoder reads from each of them. -/

namespace Sys2Proof

/-! ## Bytes and words (spec/20_memory.md R61) -/

/-- The bytes of a word, most significant first, make the word again. -/
theorem wordOfBytes_bytesOfWord (w : Word) :
    wordOfBytes (w.extractLsb' 24 8) (w.extractLsb' 16 8) (w.extractLsb' 8 8) (w.extractLsb' 0 8) = w := by
  unfold wordOfBytes
  rw [BitVec.extractLsb'_append_extractLsb'_eq_extractLsb' (by decide),
    BitVec.extractLsb'_append_extractLsb'_eq_extractLsb' (by decide),
    BitVec.extractLsb'_append_extractLsb'_eq_extractLsb' (by decide)]
  exact BitVec.extractLsb'_eq_self

/-- Decoding the bytes of a word reads that word and leaves the rest. -/
theorem decode_bytesOfWord (c : WordContext) (w : Word) (rest : List Byte) :
    decode c (bytesOfWord w ++ rest) = .ok (decodeWord c w, rest) := by
  simp only [bytesOfWord, List.cons_append, List.nil_append, decode, wordOfBytes_bytesOfWord]

/-! ## Slices of the layouts (spec/30_encoding.md R82, R83, R89) -/

@[simp] theorem headerRaw_type (t : BitVec 3) (r : BitVec 29) : (headerRaw t r).extractLsb' 29 3 = t := by
  rw [headerRaw, BitVec.extractLsb'_append_eq_of_le (by decide)]
  exact BitVec.extractLsb'_eq_self

theorem headerRaw_low (t : BitVec 3) (r : BitVec 29) (k n : Nat) (h : k + n ≤ 29) :
    (headerRaw t r).extractLsb' k n = r.extractLsb' k n := by
  rw [headerRaw, BitVec.extractLsb'_append_eq_of_add_le h]

@[simp] theorem headerRaw_rest (t : BitVec 3) (r : BitVec 29) : (headerRaw t r).extractLsb' 0 29 = r := by
  rw [headerRaw_low t r 0 29 (by decide)]
  exact BitVec.extractLsb'_eq_self

/-- A header is its type and its other bits. -/
theorem headerRaw_join (w : Word) : headerRaw (w.extractLsb' 29 3) (w.extractLsb' 0 29) = w := by
  rw [headerRaw, BitVec.extractLsb'_append_extractLsb'_eq_extractLsb' (by decide)]
  exact BitVec.extractLsb'_eq_self

theorem opRest_op (o : BitVec 2) (r : BitVec 27) : (o ++ r : BitVec 29).extractLsb' 27 2 = o := by
  rw [BitVec.extractLsb'_append_eq_of_le (by decide)]
  exact BitVec.extractLsb'_eq_self

theorem opRest_low (o : BitVec 2) (r : BitVec 27) (k n : Nat) (h : k + n ≤ 27) :
    (o ++ r : BitVec 29).extractLsb' k n = r.extractLsb' k n := by
  rw [BitVec.extractLsb'_append_eq_of_add_le h]

@[simp] theorem t1Raw_type (o : BitVec 2) (r : BitVec 27) : (t1Raw o r).extractLsb' 29 3 = 1#3 := headerRaw_type _ _

@[simp] theorem t1Raw_op (o : BitVec 2) (r : BitVec 27) : (t1Raw o r).extractLsb' 27 2 = o := by
  rw [t1Raw, headerRaw_low _ _ _ _ (by decide), opRest_op]

theorem t1Raw_low (o : BitVec 2) (r : BitVec 27) (k n : Nat) (h : k + n ≤ 27) :
    (t1Raw o r).extractLsb' k n = r.extractLsb' k n := by
  rw [t1Raw, headerRaw_low _ _ _ _ (by omega), opRest_low _ _ _ _ h]

@[simp] theorem t1Raw_rest (o : BitVec 2) (r : BitVec 27) : (t1Raw o r).extractLsb' 0 27 = r := by
  rw [t1Raw_low _ _ _ _ (by decide)]
  exact BitVec.extractLsb'_eq_self

@[simp] theorem t2Header_type (o : BitVec 2) (n : BitVec 27) : (t2Header o n).extractLsb' 29 3 = 2#3 := headerRaw_type _ _

@[simp] theorem t2Header_op (o : BitVec 2) (n : BitVec 27) : (t2Header o n).extractLsb' 27 2 = o := by
  rw [t2Header, headerRaw_low _ _ _ _ (by decide), opRest_op]

@[simp] theorem t2Header_count (o : BitVec 2) (n : BitVec 27) : (t2Header o n).extractLsb' 0 27 = n := by
  rw [t2Header, headerRaw_low _ _ _ _ (by decide), opRest_low _ _ _ _ (by decide)]
  exact BitVec.extractLsb'_eq_self

section Fields

variable (o : BitVec 2) (a : BitVec 9) (g : BitVec 5) (v : BitVec 2) (n : BitVec 11)

@[simp] theorem t1Fields_type : (t1Fields o a g v n).extractLsb' 29 3 = 1#3 := headerRaw_type _ _

@[simp] theorem t1Fields_op : (t1Fields o a g v n).extractLsb' 27 2 = o := t1Raw_op _ _

@[simp] theorem t1Fields_addrHi : (t1Fields o a g v n).extractLsb' 18 9 = a := by
  rw [t1Fields, t1Raw_low _ _ _ _ (by decide), BitVec.extractLsb'_append_eq_of_le (by decide),
    BitVec.extractLsb'_append_eq_of_le (by decide), BitVec.extractLsb'_append_eq_of_le (by decide)]
  exact BitVec.extractLsb'_eq_self

@[simp] theorem t1Fields_reg : (t1Fields o a g v n).extractLsb' 13 5 = g := by
  rw [t1Fields, t1Raw_low _ _ _ _ (by decide), BitVec.extractLsb'_append_eq_of_le (by decide),
    BitVec.extractLsb'_append_eq_of_le (by decide), BitVec.extractLsb'_append_eq_of_add_le (by decide)]
  exact BitVec.extractLsb'_eq_self

@[simp] theorem t1Fields_rsv : (t1Fields o a g v n).extractLsb' 11 2 = v := by
  rw [t1Fields, t1Raw_low _ _ _ _ (by decide), BitVec.extractLsb'_append_eq_of_le (by decide),
    BitVec.extractLsb'_append_eq_of_add_le (by decide)]
  exact BitVec.extractLsb'_eq_self

@[simp] theorem t1Fields_count : (t1Fields o a g v n).extractLsb' 0 11 = n := by
  rw [t1Fields, t1Raw_low _ _ _ _ (by decide), BitVec.extractLsb'_append_eq_of_add_le (by decide)]
  exact BitVec.extractLsb'_eq_self

end Fields

/-! ## Register addresses (spec/10_state.md R22, spec/30_encoding.md R88) -/

@[simp] theorem Reg.ofAddr_addr (r : Reg) : Reg.ofAddr r.addr = some r := by cases r <;> rfl

theorem Reg.ofAddr_eq_none : ∀ a : BitVec 5, Reg.ofAddr a = none ↔ 14 < a.toNat := by decide

theorem Reg.addr_of_ofAddr : ∀ (a : BitVec 5) (r : Reg), Reg.ofAddr a = some r → r.addr = a := by
  intro a
  have key : ∀ a : BitVec 5, (Reg.ofAddr a).all (fun r => r.addr = a) = true := by decide
  intro r h
  simpa [h] using key a

/-! ## What the decoder reads from a layout (spec/30_encoding.md R94) -/

theorem decodeT1_header (o : PacketOp) (r : Reg) (n : BitVec 11) :
    decodeT1 o (t1Header o r n) = (match o with | .read => Instr.t1r r n | .write => Instr.t1w r n) := by
  cases o <;> simp [decodeT1, t1Header]

/-- A header that fails a check of R86 is its ILLEGAL row. -/
theorem decodeT1_illegal (o : PacketOp) (a : BitVec 9) (g : BitVec 5) (v : BitVec 2) (n : BitVec 11)
    (h : t1FieldsIllegal a g v = true) :
    decodeT1 o (t1Fields o.bits a g v n) =
      (match o with | .read => .illegalT1rFields a g v n | .write => .illegalT1wFields a g v n) := by
  simp only [t1FieldsIllegal, Bool.or_eq_true, bne_iff_ne, decide_eq_true_eq] at h
  simp only [decodeT1, t1Fields_addrHi, t1Fields_reg, t1Fields_rsv, t1Fields_count]
  by_cases hz : a = 0 ∧ v = 0
  · have hg : Reg.ofAddr g = none := (Reg.ofAddr_eq_none g).2 (by
      rcases h with (h | h) | h
      · exact absurd hz.1 h
      · exact absurd hz.2 h
      · exact h)
    exact (if_pos hz).trans (by cases o <;> simp [hg])
  · exact (if_neg hz).trans (by cases o <;> rfl)

theorem classify_t1Header (o : PacketOp) (r : Reg) (n : BitVec 11) :
    classify (t1Header o r n) = (match o with | .read => Instr.t1r r n | .write => Instr.t1w r n) := by
  rw [← decodeT1_header o r n]
  cases o <;> simp [classify, t1Header, PacketOp.bits]

theorem classify_t1Fields (o : PacketOp) (a : BitVec 9) (g : BitVec 5) (v : BitVec 2) (n : BitVec 11) :
    classify (t1Fields o.bits a g v n) = decodeT1 o (t1Fields o.bits a g v n) := by
  cases o <;> simp [classify, PacketOp.bits]

/-- A code from 14 up is CMD_OTHER (R92). -/
theorem decodeCommand_other (code : Word) (h : 13 < code.toNat) : decodeCommand code = .cmdOther code := by
  unfold decodeCommand
  split <;> first | omega | rfl

end Sys2Proof
end

