-- ==== Sys2Proof/Laws/State.lean ====
section
/-! SUPPORT. One lemma per field per named update of State, true by rfl, so that no proof unfolds a record
update, and the same for the register file. -/

namespace Sys2Proof.Machine

/-! ### State.readWord -/

@[simp] theorem State.readWord_st (s : State) : s.readWord.st = s.st := rfl
@[simp] theorem State.readWord_pos (s : State) : s.readWord.pos = s.pos + 4 := rfl
@[simp] theorem State.readWord_crc (s : State) : s.readWord.crc = s.crc := rfl
@[simp] theorem State.readWord_regs (s : State) : s.readWord.regs = s.regs := rfl
@[simp] theorem State.readWord_actReg (s : State) : s.readWord.actReg = s.actReg := rfl
@[simp] theorem State.readWord_actOp (s : State) : s.readWord.actOp = s.actOp := rfl
@[simp] theorem State.readWord_budget (s : State) : s.readWord.budget = s.budget := rfl
@[simp] theorem State.readWord_fdTotal (s : State) : s.readWord.fdTotal = s.fdTotal := rfl
@[simp] theorem State.readWord_fdJ (s : State) : s.readWord.fdJ = s.fdJ := rfl
@[simp] theorem State.readWord_fdPhase (s : State) : s.readWord.fdPhase = s.fdPhase := rfl
@[simp] theorem State.readWord_asm (s : State) : s.readWord.asm = s.asm := rfl
@[simp] theorem State.readWord_pending (s : State) : s.readWord.pending = s.pending := rfl
@[simp] theorem State.readWord_pendFar (s : State) : s.readWord.pendFar = s.pendFar := rfl
@[simp] theorem State.readWord_chip (s : State) : s.readWord.chip = s.chip := rfl
@[simp] theorem State.readWord_store (s : State) : s.readWord.store = s.store := rfl
@[simp] theorem State.readWord_diag (s : State) : s.readWord.diag = s.diag := rfl
@[simp] theorem State.readWord_err (s : State) : s.readWord.err = s.err := rfl
@[simp] theorem State.readWord_params (s : State) : s.readWord.params = s.params := rfl
@[simp] theorem State.readWord_input (s : State) : s.readWord.input = s.input := rfl
@[simp] theorem State.readWord_pins (s : State) : s.readWord.pins = s.pins := rfl

/-! ### State.storeReg -/

@[simp] theorem State.storeReg_st (s : State) (r : Reg) (v : Word) : (s.storeReg r v).st = s.st := rfl
@[simp] theorem State.storeReg_pos (s : State) (r : Reg) (v : Word) : (s.storeReg r v).pos = s.pos := rfl
@[simp] theorem State.storeReg_crc (s : State) (r : Reg) (v : Word) : (s.storeReg r v).crc = s.crc := rfl
@[simp] theorem State.storeReg_regs (s : State) (r : Reg) (v : Word) : (s.storeReg r v).regs = s.regs.write v r := rfl
@[simp] theorem State.storeReg_actReg (s : State) (r : Reg) (v : Word) : (s.storeReg r v).actReg = s.actReg := rfl
@[simp] theorem State.storeReg_actOp (s : State) (r : Reg) (v : Word) : (s.storeReg r v).actOp = s.actOp := rfl
@[simp] theorem State.storeReg_budget (s : State) (r : Reg) (v : Word) : (s.storeReg r v).budget = s.budget := rfl
@[simp] theorem State.storeReg_fdTotal (s : State) (r : Reg) (v : Word) : (s.storeReg r v).fdTotal = s.fdTotal := rfl
@[simp] theorem State.storeReg_fdJ (s : State) (r : Reg) (v : Word) : (s.storeReg r v).fdJ = s.fdJ := rfl
@[simp] theorem State.storeReg_fdPhase (s : State) (r : Reg) (v : Word) : (s.storeReg r v).fdPhase = s.fdPhase := rfl
@[simp] theorem State.storeReg_asm (s : State) (r : Reg) (v : Word) : (s.storeReg r v).asm = s.asm := rfl
@[simp] theorem State.storeReg_pending (s : State) (r : Reg) (v : Word) : (s.storeReg r v).pending = s.pending := rfl
@[simp] theorem State.storeReg_pendFar (s : State) (r : Reg) (v : Word) : (s.storeReg r v).pendFar = s.pendFar := rfl
@[simp] theorem State.storeReg_chip (s : State) (r : Reg) (v : Word) : (s.storeReg r v).chip = s.chip := rfl
@[simp] theorem State.storeReg_store (s : State) (r : Reg) (v : Word) : (s.storeReg r v).store = s.store := rfl
@[simp] theorem State.storeReg_diag (s : State) (r : Reg) (v : Word) : (s.storeReg r v).diag = s.diag := rfl
@[simp] theorem State.storeReg_err (s : State) (r : Reg) (v : Word) : (s.storeReg r v).err = s.err := rfl
@[simp] theorem State.storeReg_params (s : State) (r : Reg) (v : Word) : (s.storeReg r v).params = s.params := rfl
@[simp] theorem State.storeReg_input (s : State) (r : Reg) (v : Word) : (s.storeReg r v).input = s.input := rfl
@[simp] theorem State.storeReg_pins (s : State) (r : Reg) (v : Word) : (s.storeReg r v).pins = s.pins := rfl

/-! ### State.setFar -/

@[simp] theorem State.setFar_st (s : State) (w : Word) : (s.setFar w).st = s.st := rfl
@[simp] theorem State.setFar_pos (s : State) (w : Word) : (s.setFar w).pos = s.pos := rfl
@[simp] theorem State.setFar_crc (s : State) (w : Word) : (s.setFar w).crc = s.crc := rfl
@[simp] theorem State.setFar_regs (s : State) (w : Word) : (s.setFar w).regs = s.regs.write w .far := rfl
@[simp] theorem State.setFar_actReg (s : State) (w : Word) : (s.setFar w).actReg = s.actReg := rfl
@[simp] theorem State.setFar_actOp (s : State) (w : Word) : (s.setFar w).actOp = s.actOp := rfl
@[simp] theorem State.setFar_budget (s : State) (w : Word) : (s.setFar w).budget = s.budget := rfl
@[simp] theorem State.setFar_fdTotal (s : State) (w : Word) : (s.setFar w).fdTotal = s.fdTotal := rfl
@[simp] theorem State.setFar_fdJ (s : State) (w : Word) : (s.setFar w).fdJ = s.fdJ := rfl
@[simp] theorem State.setFar_fdPhase (s : State) (w : Word) : (s.setFar w).fdPhase = s.fdPhase := rfl
@[simp] theorem State.setFar_asm (s : State) (w : Word) : (s.setFar w).asm = s.asm := rfl
@[simp] theorem State.setFar_pending (s : State) (w : Word) : (s.setFar w).pending = s.pending := rfl
@[simp] theorem State.setFar_pendFar (s : State) (w : Word) : (s.setFar w).pendFar = s.pendFar := rfl
@[simp] theorem State.setFar_chip (s : State) (w : Word) : (s.setFar w).chip = s.chip := rfl
@[simp] theorem State.setFar_store (s : State) (w : Word) : (s.setFar w).store = s.store := rfl
@[simp] theorem State.setFar_diag (s : State) (w : Word) : (s.setFar w).diag = s.diag := rfl
@[simp] theorem State.setFar_err (s : State) (w : Word) : (s.setFar w).err = s.err := rfl
@[simp] theorem State.setFar_params (s : State) (w : Word) : (s.setFar w).params = s.params := rfl
@[simp] theorem State.setFar_input (s : State) (w : Word) : (s.setFar w).input = s.input := rfl
@[simp] theorem State.setFar_pins (s : State) (w : Word) : (s.setFar w).pins = s.pins := rfl

/-! ### State.setCrc -/

@[simp] theorem State.setCrc_st (s : State) (c : BitVec 16) : (s.setCrc c).st = s.st := rfl
@[simp] theorem State.setCrc_pos (s : State) (c : BitVec 16) : (s.setCrc c).pos = s.pos := rfl
@[simp] theorem State.setCrc_crc (s : State) (c : BitVec 16) : (s.setCrc c).crc = c := rfl
@[simp] theorem State.setCrc_regs (s : State) (c : BitVec 16) : (s.setCrc c).regs = s.regs := rfl
@[simp] theorem State.setCrc_actReg (s : State) (c : BitVec 16) : (s.setCrc c).actReg = s.actReg := rfl
@[simp] theorem State.setCrc_actOp (s : State) (c : BitVec 16) : (s.setCrc c).actOp = s.actOp := rfl
@[simp] theorem State.setCrc_budget (s : State) (c : BitVec 16) : (s.setCrc c).budget = s.budget := rfl
@[simp] theorem State.setCrc_fdTotal (s : State) (c : BitVec 16) : (s.setCrc c).fdTotal = s.fdTotal := rfl
@[simp] theorem State.setCrc_fdJ (s : State) (c : BitVec 16) : (s.setCrc c).fdJ = s.fdJ := rfl
@[simp] theorem State.setCrc_fdPhase (s : State) (c : BitVec 16) : (s.setCrc c).fdPhase = s.fdPhase := rfl
@[simp] theorem State.setCrc_asm (s : State) (c : BitVec 16) : (s.setCrc c).asm = s.asm := rfl
@[simp] theorem State.setCrc_pending (s : State) (c : BitVec 16) : (s.setCrc c).pending = s.pending := rfl
@[simp] theorem State.setCrc_pendFar (s : State) (c : BitVec 16) : (s.setCrc c).pendFar = s.pendFar := rfl
@[simp] theorem State.setCrc_chip (s : State) (c : BitVec 16) : (s.setCrc c).chip = s.chip := rfl
@[simp] theorem State.setCrc_store (s : State) (c : BitVec 16) : (s.setCrc c).store = s.store := rfl
@[simp] theorem State.setCrc_diag (s : State) (c : BitVec 16) : (s.setCrc c).diag = s.diag := rfl
@[simp] theorem State.setCrc_err (s : State) (c : BitVec 16) : (s.setCrc c).err = s.err := rfl
@[simp] theorem State.setCrc_params (s : State) (c : BitVec 16) : (s.setCrc c).params = s.params := rfl
@[simp] theorem State.setCrc_input (s : State) (c : BitVec 16) : (s.setCrc c).input = s.input := rfl
@[simp] theorem State.setCrc_pins (s : State) (c : BitVec 16) : (s.setCrc c).pins = s.pins := rfl

/-! ### State.foldCrc -/

@[simp] theorem State.foldCrc_st (s : State) (r : Reg) (v : Word) : (s.foldCrc r v).st = s.st := rfl
@[simp] theorem State.foldCrc_pos (s : State) (r : Reg) (v : Word) : (s.foldCrc r v).pos = s.pos := rfl
@[simp] theorem State.foldCrc_crc (s : State) (r : Reg) (v : Word) : (s.foldCrc r v).crc = crcUpdate s.crc r.addr v := rfl
@[simp] theorem State.foldCrc_regs (s : State) (r : Reg) (v : Word) : (s.foldCrc r v).regs = s.regs := rfl
@[simp] theorem State.foldCrc_actReg (s : State) (r : Reg) (v : Word) : (s.foldCrc r v).actReg = s.actReg := rfl
@[simp] theorem State.foldCrc_actOp (s : State) (r : Reg) (v : Word) : (s.foldCrc r v).actOp = s.actOp := rfl
@[simp] theorem State.foldCrc_budget (s : State) (r : Reg) (v : Word) : (s.foldCrc r v).budget = s.budget := rfl
@[simp] theorem State.foldCrc_fdTotal (s : State) (r : Reg) (v : Word) : (s.foldCrc r v).fdTotal = s.fdTotal := rfl
@[simp] theorem State.foldCrc_fdJ (s : State) (r : Reg) (v : Word) : (s.foldCrc r v).fdJ = s.fdJ := rfl
@[simp] theorem State.foldCrc_fdPhase (s : State) (r : Reg) (v : Word) : (s.foldCrc r v).fdPhase = s.fdPhase := rfl
@[simp] theorem State.foldCrc_asm (s : State) (r : Reg) (v : Word) : (s.foldCrc r v).asm = s.asm := rfl
@[simp] theorem State.foldCrc_pending (s : State) (r : Reg) (v : Word) : (s.foldCrc r v).pending = s.pending := rfl
@[simp] theorem State.foldCrc_pendFar (s : State) (r : Reg) (v : Word) : (s.foldCrc r v).pendFar = s.pendFar := rfl
@[simp] theorem State.foldCrc_chip (s : State) (r : Reg) (v : Word) : (s.foldCrc r v).chip = s.chip := rfl
@[simp] theorem State.foldCrc_store (s : State) (r : Reg) (v : Word) : (s.foldCrc r v).store = s.store := rfl
@[simp] theorem State.foldCrc_diag (s : State) (r : Reg) (v : Word) : (s.foldCrc r v).diag = s.diag := rfl
@[simp] theorem State.foldCrc_err (s : State) (r : Reg) (v : Word) : (s.foldCrc r v).err = s.err := rfl
@[simp] theorem State.foldCrc_params (s : State) (r : Reg) (v : Word) : (s.foldCrc r v).params = s.params := rfl
@[simp] theorem State.foldCrc_input (s : State) (r : Reg) (v : Word) : (s.foldCrc r v).input = s.input := rfl
@[simp] theorem State.foldCrc_pins (s : State) (r : Reg) (v : Word) : (s.foldCrc r v).pins = s.pins := rfl

/-! ### State.payloadWrite -/

@[simp] theorem State.payloadWrite_st (s : State) (r : Reg) (v : Word) : (s.payloadWrite r v).st = s.st := rfl
@[simp] theorem State.payloadWrite_pos (s : State) (r : Reg) (v : Word) : (s.payloadWrite r v).pos = s.pos + 4 := rfl
@[simp] theorem State.payloadWrite_crc (s : State) (r : Reg) (v : Word) : (s.payloadWrite r v).crc = crcUpdate s.crc r.addr v := rfl
@[simp] theorem State.payloadWrite_regs (s : State) (r : Reg) (v : Word) : (s.payloadWrite r v).regs = s.regs.write v r := rfl
@[simp] theorem State.payloadWrite_actReg (s : State) (r : Reg) (v : Word) : (s.payloadWrite r v).actReg = s.actReg := rfl
@[simp] theorem State.payloadWrite_actOp (s : State) (r : Reg) (v : Word) : (s.payloadWrite r v).actOp = s.actOp := rfl
@[simp] theorem State.payloadWrite_budget (s : State) (r : Reg) (v : Word) : (s.payloadWrite r v).budget = s.budget := rfl
@[simp] theorem State.payloadWrite_fdTotal (s : State) (r : Reg) (v : Word) : (s.payloadWrite r v).fdTotal = s.fdTotal := rfl
@[simp] theorem State.payloadWrite_fdJ (s : State) (r : Reg) (v : Word) : (s.payloadWrite r v).fdJ = s.fdJ := rfl
@[simp] theorem State.payloadWrite_fdPhase (s : State) (r : Reg) (v : Word) : (s.payloadWrite r v).fdPhase = s.fdPhase := rfl
@[simp] theorem State.payloadWrite_asm (s : State) (r : Reg) (v : Word) : (s.payloadWrite r v).asm = s.asm := rfl
@[simp] theorem State.payloadWrite_pending (s : State) (r : Reg) (v : Word) : (s.payloadWrite r v).pending = s.pending := rfl
@[simp] theorem State.payloadWrite_pendFar (s : State) (r : Reg) (v : Word) : (s.payloadWrite r v).pendFar = s.pendFar := rfl
@[simp] theorem State.payloadWrite_chip (s : State) (r : Reg) (v : Word) : (s.payloadWrite r v).chip = s.chip := rfl
@[simp] theorem State.payloadWrite_store (s : State) (r : Reg) (v : Word) : (s.payloadWrite r v).store = s.store := rfl
@[simp] theorem State.payloadWrite_diag (s : State) (r : Reg) (v : Word) : (s.payloadWrite r v).diag = s.diag := rfl
@[simp] theorem State.payloadWrite_err (s : State) (r : Reg) (v : Word) : (s.payloadWrite r v).err = s.err := rfl
@[simp] theorem State.payloadWrite_params (s : State) (r : Reg) (v : Word) : (s.payloadWrite r v).params = s.params := rfl
@[simp] theorem State.payloadWrite_input (s : State) (r : Reg) (v : Word) : (s.payloadWrite r v).input = s.input := rfl
@[simp] theorem State.payloadWrite_pins (s : State) (r : Reg) (v : Word) : (s.payloadWrite r v).pins = s.pins := rfl

/-! ### State.finishPayload -/

@[simp] theorem State.finishPayload_st (s : State) : s.finishPayload.st = if s.budget - 1 = 0 then .waitingControl else s.st := rfl
@[simp] theorem State.finishPayload_pos (s : State) : s.finishPayload.pos = s.pos := rfl
@[simp] theorem State.finishPayload_crc (s : State) : s.finishPayload.crc = s.crc := rfl
@[simp] theorem State.finishPayload_regs (s : State) : s.finishPayload.regs = s.regs := rfl
@[simp] theorem State.finishPayload_actReg (s : State) : s.finishPayload.actReg = s.actReg := rfl
@[simp] theorem State.finishPayload_actOp (s : State) : s.finishPayload.actOp = s.actOp := rfl
@[simp] theorem State.finishPayload_budget (s : State) : s.finishPayload.budget = s.budget - 1 := rfl
@[simp] theorem State.finishPayload_fdTotal (s : State) : s.finishPayload.fdTotal = s.fdTotal := rfl
@[simp] theorem State.finishPayload_fdJ (s : State) : s.finishPayload.fdJ = s.fdJ := rfl
@[simp] theorem State.finishPayload_fdPhase (s : State) : s.finishPayload.fdPhase = s.fdPhase := rfl
@[simp] theorem State.finishPayload_asm (s : State) : s.finishPayload.asm = s.asm := rfl
@[simp] theorem State.finishPayload_pending (s : State) : s.finishPayload.pending = s.pending := rfl
@[simp] theorem State.finishPayload_pendFar (s : State) : s.finishPayload.pendFar = s.pendFar := rfl
@[simp] theorem State.finishPayload_chip (s : State) : s.finishPayload.chip = s.chip := rfl
@[simp] theorem State.finishPayload_store (s : State) : s.finishPayload.store = s.store := rfl
@[simp] theorem State.finishPayload_diag (s : State) : s.finishPayload.diag = s.diag := rfl
@[simp] theorem State.finishPayload_err (s : State) : s.finishPayload.err = s.err := rfl
@[simp] theorem State.finishPayload_params (s : State) : s.finishPayload.params = s.params := rfl
@[simp] theorem State.finishPayload_input (s : State) : s.finishPayload.input = s.input := rfl
@[simp] theorem State.finishPayload_pins (s : State) : s.finishPayload.pins = s.pins := rfl

/-! ### State.raise -/

@[simp] theorem State.raise_st (s : State) (k : EventKind) (i : Info) (off : Nat) : (s.raise k i off).st = .failed := rfl
@[simp] theorem State.raise_pos (s : State) (k : EventKind) (i : Info) (off : Nat) : (s.raise k i off).pos = s.pos := rfl
@[simp] theorem State.raise_crc (s : State) (k : EventKind) (i : Info) (off : Nat) : (s.raise k i off).crc = s.crc := rfl
@[simp] theorem State.raise_regs (s : State) (k : EventKind) (i : Info) (off : Nat) : (s.raise k i off).regs = s.regs := rfl
@[simp] theorem State.raise_actReg (s : State) (k : EventKind) (i : Info) (off : Nat) : (s.raise k i off).actReg = s.actReg := rfl
@[simp] theorem State.raise_actOp (s : State) (k : EventKind) (i : Info) (off : Nat) : (s.raise k i off).actOp = s.actOp := rfl
@[simp] theorem State.raise_budget (s : State) (k : EventKind) (i : Info) (off : Nat) : (s.raise k i off).budget = s.budget := rfl
@[simp] theorem State.raise_fdTotal (s : State) (k : EventKind) (i : Info) (off : Nat) : (s.raise k i off).fdTotal = s.fdTotal := rfl
@[simp] theorem State.raise_fdJ (s : State) (k : EventKind) (i : Info) (off : Nat) : (s.raise k i off).fdJ = s.fdJ := rfl
@[simp] theorem State.raise_fdPhase (s : State) (k : EventKind) (i : Info) (off : Nat) : (s.raise k i off).fdPhase = s.fdPhase := rfl
@[simp] theorem State.raise_asm (s : State) (k : EventKind) (i : Info) (off : Nat) : (s.raise k i off).asm = s.asm := rfl
@[simp] theorem State.raise_pending (s : State) (k : EventKind) (i : Info) (off : Nat) : (s.raise k i off).pending = s.pending := rfl
@[simp] theorem State.raise_pendFar (s : State) (k : EventKind) (i : Info) (off : Nat) : (s.raise k i off).pendFar = s.pendFar := rfl
@[simp] theorem State.raise_chip (s : State) (k : EventKind) (i : Info) (off : Nat) : (s.raise k i off).chip = s.chip := rfl
@[simp] theorem State.raise_store (s : State) (k : EventKind) (i : Info) (off : Nat) : (s.raise k i off).store = s.store := rfl
@[simp] theorem State.raise_diag (s : State) (k : EventKind) (i : Info) (off : Nat) : (s.raise k i off).diag = s.diag := rfl
@[simp] theorem State.raise_err (s : State) (k : EventKind) (i : Info) (off : Nat) : (s.raise k i off).err = some { kind := k, code := k.code, state := s.st, offset := off, info := i } := rfl
@[simp] theorem State.raise_params (s : State) (k : EventKind) (i : Info) (off : Nat) : (s.raise k i off).params = s.params := rfl
@[simp] theorem State.raise_input (s : State) (k : EventKind) (i : Info) (off : Nat) : (s.raise k i off).input = s.input := rfl
@[simp] theorem State.raise_pins (s : State) (k : EventKind) (i : Info) (off : Nat) : (s.raise k i off).pins = s.pins := rfl

/-- UnrecognizedBlock is one more `raise`, so every lemma of `raise` serves it. -/
@[simp] theorem State.unrecognizedBlock_eq (s : State) (far : Word) (off : Nat) :
    s.unrecognizedBlock far off = s.raise .unrecognizedBlock (.block (farDecode far).block far) off := rfl

/-! ### State.log -/

@[simp] theorem State.log_st (s : State) (k : EventKind) (i : Info) (off : Nat) : (s.log k i off).st = s.st := rfl
@[simp] theorem State.log_pos (s : State) (k : EventKind) (i : Info) (off : Nat) : (s.log k i off).pos = s.pos := rfl
@[simp] theorem State.log_crc (s : State) (k : EventKind) (i : Info) (off : Nat) : (s.log k i off).crc = s.crc := rfl
@[simp] theorem State.log_regs (s : State) (k : EventKind) (i : Info) (off : Nat) : (s.log k i off).regs = s.regs := rfl
@[simp] theorem State.log_actReg (s : State) (k : EventKind) (i : Info) (off : Nat) : (s.log k i off).actReg = s.actReg := rfl
@[simp] theorem State.log_actOp (s : State) (k : EventKind) (i : Info) (off : Nat) : (s.log k i off).actOp = s.actOp := rfl
@[simp] theorem State.log_budget (s : State) (k : EventKind) (i : Info) (off : Nat) : (s.log k i off).budget = s.budget := rfl
@[simp] theorem State.log_fdTotal (s : State) (k : EventKind) (i : Info) (off : Nat) : (s.log k i off).fdTotal = s.fdTotal := rfl
@[simp] theorem State.log_fdJ (s : State) (k : EventKind) (i : Info) (off : Nat) : (s.log k i off).fdJ = s.fdJ := rfl
@[simp] theorem State.log_fdPhase (s : State) (k : EventKind) (i : Info) (off : Nat) : (s.log k i off).fdPhase = s.fdPhase := rfl
@[simp] theorem State.log_asm (s : State) (k : EventKind) (i : Info) (off : Nat) : (s.log k i off).asm = s.asm := rfl
@[simp] theorem State.log_pending (s : State) (k : EventKind) (i : Info) (off : Nat) : (s.log k i off).pending = s.pending := rfl
@[simp] theorem State.log_pendFar (s : State) (k : EventKind) (i : Info) (off : Nat) : (s.log k i off).pendFar = s.pendFar := rfl
@[simp] theorem State.log_chip (s : State) (k : EventKind) (i : Info) (off : Nat) : (s.log k i off).chip = s.chip := rfl
@[simp] theorem State.log_store (s : State) (k : EventKind) (i : Info) (off : Nat) : (s.log k i off).store = s.store := rfl
@[simp] theorem State.log_diag (s : State) (k : EventKind) (i : Info) (off : Nat) : (s.log k i off).diag = s.diag ++ [{ kind := k, code := k.code, info := i, offset := off }] := rfl
@[simp] theorem State.log_err (s : State) (k : EventKind) (i : Info) (off : Nat) : (s.log k i off).err = s.err := rfl
@[simp] theorem State.log_params (s : State) (k : EventKind) (i : Info) (off : Nat) : (s.log k i off).params = s.params := rfl
@[simp] theorem State.log_input (s : State) (k : EventKind) (i : Info) (off : Nat) : (s.log k i off).input = s.input := rfl
@[simp] theorem State.log_pins (s : State) (k : EventKind) (i : Info) (off : Nat) : (s.log k i off).pins = s.pins := rfl

/-! ### State.beginPayload -/

@[simp] theorem State.beginPayload_st (s : State) (n : Nat) : (s.beginPayload n).st = .waitingData := rfl
@[simp] theorem State.beginPayload_pos (s : State) (n : Nat) : (s.beginPayload n).pos = s.pos := rfl
@[simp] theorem State.beginPayload_crc (s : State) (n : Nat) : (s.beginPayload n).crc = s.crc := rfl
@[simp] theorem State.beginPayload_regs (s : State) (n : Nat) : (s.beginPayload n).regs = s.regs := rfl
@[simp] theorem State.beginPayload_actReg (s : State) (n : Nat) : (s.beginPayload n).actReg = s.actReg := rfl
@[simp] theorem State.beginPayload_actOp (s : State) (n : Nat) : (s.beginPayload n).actOp = s.actOp := rfl
@[simp] theorem State.beginPayload_budget (s : State) (n : Nat) : (s.beginPayload n).budget = n := rfl
@[simp] theorem State.beginPayload_fdTotal (s : State) (n : Nat) : (s.beginPayload n).fdTotal = s.fdTotal := rfl
@[simp] theorem State.beginPayload_fdJ (s : State) (n : Nat) : (s.beginPayload n).fdJ = s.fdJ := rfl
@[simp] theorem State.beginPayload_fdPhase (s : State) (n : Nat) : (s.beginPayload n).fdPhase = s.fdPhase := rfl
@[simp] theorem State.beginPayload_asm (s : State) (n : Nat) : (s.beginPayload n).asm = s.asm := rfl
@[simp] theorem State.beginPayload_pending (s : State) (n : Nat) : (s.beginPayload n).pending = s.pending := rfl
@[simp] theorem State.beginPayload_pendFar (s : State) (n : Nat) : (s.beginPayload n).pendFar = s.pendFar := rfl
@[simp] theorem State.beginPayload_chip (s : State) (n : Nat) : (s.beginPayload n).chip = s.chip := rfl
@[simp] theorem State.beginPayload_store (s : State) (n : Nat) : (s.beginPayload n).store = s.store := rfl
@[simp] theorem State.beginPayload_diag (s : State) (n : Nat) : (s.beginPayload n).diag = s.diag := rfl
@[simp] theorem State.beginPayload_err (s : State) (n : Nat) : (s.beginPayload n).err = s.err := rfl
@[simp] theorem State.beginPayload_params (s : State) (n : Nat) : (s.beginPayload n).params = s.params := rfl
@[simp] theorem State.beginPayload_input (s : State) (n : Nat) : (s.beginPayload n).input = s.input := rfl
@[simp] theorem State.beginPayload_pins (s : State) (n : Nat) : (s.beginPayload n).pins = s.pins := rfl

/-! ### State.beginBurst -/

@[simp] theorem State.beginBurst_st (s : State) (n : Nat) : (s.beginBurst n).st = s.st := rfl
@[simp] theorem State.beginBurst_pos (s : State) (n : Nat) : (s.beginBurst n).pos = s.pos := rfl
@[simp] theorem State.beginBurst_crc (s : State) (n : Nat) : (s.beginBurst n).crc = s.crc := rfl
@[simp] theorem State.beginBurst_regs (s : State) (n : Nat) : (s.beginBurst n).regs = s.regs := rfl
@[simp] theorem State.beginBurst_actReg (s : State) (n : Nat) : (s.beginBurst n).actReg = s.actReg := rfl
@[simp] theorem State.beginBurst_actOp (s : State) (n : Nat) : (s.beginBurst n).actOp = s.actOp := rfl
@[simp] theorem State.beginBurst_budget (s : State) (n : Nat) : (s.beginBurst n).budget = s.budget := rfl
@[simp] theorem State.beginBurst_fdTotal (s : State) (n : Nat) : (s.beginBurst n).fdTotal = n := rfl
@[simp] theorem State.beginBurst_fdJ (s : State) (n : Nat) : (s.beginBurst n).fdJ = 0 := rfl
@[simp] theorem State.beginBurst_fdPhase (s : State) (n : Nat) : (s.beginBurst n).fdPhase = .payload := rfl
@[simp] theorem State.beginBurst_asm (s : State) (n : Nat) : (s.beginBurst n).asm = [] := rfl
@[simp] theorem State.beginBurst_pending (s : State) (n : Nat) : (s.beginBurst n).pending = s.pending := rfl
@[simp] theorem State.beginBurst_pendFar (s : State) (n : Nat) : (s.beginBurst n).pendFar = s.pendFar := rfl
@[simp] theorem State.beginBurst_chip (s : State) (n : Nat) : (s.beginBurst n).chip = s.chip := rfl
@[simp] theorem State.beginBurst_store (s : State) (n : Nat) : (s.beginBurst n).store = s.store := rfl
@[simp] theorem State.beginBurst_diag (s : State) (n : Nat) : (s.beginBurst n).diag = s.diag := rfl
@[simp] theorem State.beginBurst_err (s : State) (n : Nat) : (s.beginBurst n).err = s.err := rfl
@[simp] theorem State.beginBurst_params (s : State) (n : Nat) : (s.beginBurst n).params = s.params := rfl
@[simp] theorem State.beginBurst_input (s : State) (n : Nat) : (s.beginBurst n).input = s.input := rfl
@[simp] theorem State.beginBurst_pins (s : State) (n : Nat) : (s.beginBurst n).pins = s.pins := rfl

/-! ### appendWord -/

@[simp] theorem appendWord_st (s : State) (v : Word) : (appendWord v s).st = s.st := rfl
@[simp] theorem appendWord_pos (s : State) (v : Word) : (appendWord v s).pos = s.pos + 4 := rfl
@[simp] theorem appendWord_crc (s : State) (v : Word) : (appendWord v s).crc = crcUpdate s.crc Reg.fdri.addr v := rfl
@[simp] theorem appendWord_regs (s : State) (v : Word) : (appendWord v s).regs = s.regs.write v .fdri := rfl
@[simp] theorem appendWord_actReg (s : State) (v : Word) : (appendWord v s).actReg = s.actReg := rfl
@[simp] theorem appendWord_actOp (s : State) (v : Word) : (appendWord v s).actOp = s.actOp := rfl
@[simp] theorem appendWord_budget (s : State) (v : Word) : (appendWord v s).budget = s.budget := rfl
@[simp] theorem appendWord_fdTotal (s : State) (v : Word) : (appendWord v s).fdTotal = s.fdTotal := rfl
@[simp] theorem appendWord_fdJ (s : State) (v : Word) : (appendWord v s).fdJ = s.fdJ := rfl
@[simp] theorem appendWord_fdPhase (s : State) (v : Word) : (appendWord v s).fdPhase = s.fdPhase := rfl
@[simp] theorem appendWord_asm (s : State) (v : Word) : (appendWord v s).asm = s.asm ++ [v] := rfl
@[simp] theorem appendWord_pending (s : State) (v : Word) : (appendWord v s).pending = s.pending := rfl
@[simp] theorem appendWord_pendFar (s : State) (v : Word) : (appendWord v s).pendFar = s.pendFar := rfl
@[simp] theorem appendWord_chip (s : State) (v : Word) : (appendWord v s).chip = s.chip := rfl
@[simp] theorem appendWord_store (s : State) (v : Word) : (appendWord v s).store = s.store := rfl
@[simp] theorem appendWord_diag (s : State) (v : Word) : (appendWord v s).diag = s.diag := rfl
@[simp] theorem appendWord_err (s : State) (v : Word) : (appendWord v s).err = s.err := rfl
@[simp] theorem appendWord_params (s : State) (v : Word) : (appendWord v s).params = s.params := rfl
@[simp] theorem appendWord_input (s : State) (v : Word) : (appendWord v s).input = s.input := rfl
@[simp] theorem appendWord_pins (s : State) (v : Word) : (appendWord v s).pins = s.pins := rfl

/-! ### countBurstWord -/

@[simp] theorem countBurstWord_st (s : State) : (countBurstWord s).st = s.st := rfl
@[simp] theorem countBurstWord_pos (s : State) : (countBurstWord s).pos = s.pos := rfl
@[simp] theorem countBurstWord_crc (s : State) : (countBurstWord s).crc = s.crc := rfl
@[simp] theorem countBurstWord_regs (s : State) : (countBurstWord s).regs = s.regs := rfl
@[simp] theorem countBurstWord_actReg (s : State) : (countBurstWord s).actReg = s.actReg := rfl
@[simp] theorem countBurstWord_actOp (s : State) : (countBurstWord s).actOp = s.actOp := rfl
@[simp] theorem countBurstWord_budget (s : State) : (countBurstWord s).budget = s.budget - 1 := rfl
@[simp] theorem countBurstWord_fdTotal (s : State) : (countBurstWord s).fdTotal = s.fdTotal := rfl
@[simp] theorem countBurstWord_fdJ (s : State) : (countBurstWord s).fdJ = s.fdJ + 1 := rfl
@[simp] theorem countBurstWord_fdPhase (s : State) : (countBurstWord s).fdPhase = if s.budget - 1 = 0 then .autoCrc else s.fdPhase := rfl
@[simp] theorem countBurstWord_asm (s : State) : (countBurstWord s).asm = s.asm := rfl
@[simp] theorem countBurstWord_pending (s : State) : (countBurstWord s).pending = s.pending := rfl
@[simp] theorem countBurstWord_pendFar (s : State) : (countBurstWord s).pendFar = s.pendFar := rfl
@[simp] theorem countBurstWord_chip (s : State) : (countBurstWord s).chip = s.chip := rfl
@[simp] theorem countBurstWord_store (s : State) : (countBurstWord s).store = s.store := rfl
@[simp] theorem countBurstWord_diag (s : State) : (countBurstWord s).diag = s.diag := rfl
@[simp] theorem countBurstWord_err (s : State) : (countBurstWord s).err = s.err := rfl
@[simp] theorem countBurstWord_params (s : State) : (countBurstWord s).params = s.params := rfl
@[simp] theorem countBurstWord_input (s : State) : (countBurstWord s).input = s.input := rfl
@[simp] theorem countBurstWord_pins (s : State) : (countBurstWord s).pins = s.pins := rfl

/-! ### State.rst -/

@[simp] theorem State.rst_st (s : State) : s.rst.st = .idle := rfl
@[simp] theorem State.rst_pos (s : State) : s.rst.pos = 0 := rfl
@[simp] theorem State.rst_crc (s : State) : s.rst.crc = 0 := rfl
@[simp] theorem State.rst_regs (s : State) : s.rst.regs = RegFile.zero := rfl
@[simp] theorem State.rst_actReg (s : State) : s.rst.actReg = none := rfl
@[simp] theorem State.rst_actOp (s : State) : s.rst.actOp = .write := rfl
@[simp] theorem State.rst_budget (s : State) : s.rst.budget = 0 := rfl
@[simp] theorem State.rst_fdTotal (s : State) : s.rst.fdTotal = 0 := rfl
@[simp] theorem State.rst_fdJ (s : State) : s.rst.fdJ = 0 := rfl
@[simp] theorem State.rst_fdPhase (s : State) : s.rst.fdPhase = .payload := rfl
@[simp] theorem State.rst_asm (s : State) : s.rst.asm = [] := rfl
@[simp] theorem State.rst_pending (s : State) : s.rst.pending = none := rfl
@[simp] theorem State.rst_pendFar (s : State) : s.rst.pendFar = 0 := rfl
@[simp] theorem State.rst_chip (s : State) : s.rst.chip = none := rfl
@[simp] theorem State.rst_store (s : State) : s.rst.store = none := rfl
@[simp] theorem State.rst_diag (s : State) : s.rst.diag = [] := rfl
@[simp] theorem State.rst_err (s : State) : s.rst.err = none := rfl
@[simp] theorem State.rst_params (s : State) : s.rst.params = s.params := rfl
@[simp] theorem State.rst_input (s : State) : s.rst.input = s.input := rfl
@[simp] theorem State.rst_pins (s : State) : s.rst.pins = s.pins := rfl

/-! ### State.warn: `st`, `diag` and `err` are all it can change -/

@[simp] theorem State.warn_pos (s : State) (k : EventKind) (i : Info) (off : Nat) : (s.warn k i off).pos = s.pos := by
  unfold State.warn; split <;> rfl
@[simp] theorem State.warn_crc (s : State) (k : EventKind) (i : Info) (off : Nat) : (s.warn k i off).crc = s.crc := by
  unfold State.warn; split <;> rfl
@[simp] theorem State.warn_regs (s : State) (k : EventKind) (i : Info) (off : Nat) : (s.warn k i off).regs = s.regs := by
  unfold State.warn; split <;> rfl
@[simp] theorem State.warn_actReg (s : State) (k : EventKind) (i : Info) (off : Nat) : (s.warn k i off).actReg = s.actReg := by
  unfold State.warn; split <;> rfl
@[simp] theorem State.warn_actOp (s : State) (k : EventKind) (i : Info) (off : Nat) : (s.warn k i off).actOp = s.actOp := by
  unfold State.warn; split <;> rfl
@[simp] theorem State.warn_budget (s : State) (k : EventKind) (i : Info) (off : Nat) : (s.warn k i off).budget = s.budget := by
  unfold State.warn; split <;> rfl
@[simp] theorem State.warn_fdTotal (s : State) (k : EventKind) (i : Info) (off : Nat) : (s.warn k i off).fdTotal = s.fdTotal := by
  unfold State.warn; split <;> rfl
@[simp] theorem State.warn_fdJ (s : State) (k : EventKind) (i : Info) (off : Nat) : (s.warn k i off).fdJ = s.fdJ := by
  unfold State.warn; split <;> rfl
@[simp] theorem State.warn_fdPhase (s : State) (k : EventKind) (i : Info) (off : Nat) : (s.warn k i off).fdPhase = s.fdPhase := by
  unfold State.warn; split <;> rfl
@[simp] theorem State.warn_asm (s : State) (k : EventKind) (i : Info) (off : Nat) : (s.warn k i off).asm = s.asm := by
  unfold State.warn; split <;> rfl
@[simp] theorem State.warn_pending (s : State) (k : EventKind) (i : Info) (off : Nat) : (s.warn k i off).pending = s.pending := by
  unfold State.warn; split <;> rfl
@[simp] theorem State.warn_pendFar (s : State) (k : EventKind) (i : Info) (off : Nat) : (s.warn k i off).pendFar = s.pendFar := by
  unfold State.warn; split <;> rfl
@[simp] theorem State.warn_chip (s : State) (k : EventKind) (i : Info) (off : Nat) : (s.warn k i off).chip = s.chip := by
  unfold State.warn; split <;> rfl
@[simp] theorem State.warn_store (s : State) (k : EventKind) (i : Info) (off : Nat) : (s.warn k i off).store = s.store := by
  unfold State.warn; split <;> rfl
@[simp] theorem State.warn_params (s : State) (k : EventKind) (i : Info) (off : Nat) : (s.warn k i off).params = s.params := by
  unfold State.warn; split <;> rfl
@[simp] theorem State.warn_input (s : State) (k : EventKind) (i : Info) (off : Nat) : (s.warn k i off).input = s.input := by
  unfold State.warn; split <;> rfl
@[simp] theorem State.warn_pins (s : State) (k : EventKind) (i : Info) (off : Nat) : (s.warn k i off).pins = s.pins := by
  unfold State.warn; split <;> rfl

/-- `warn` in full: strict mode promotes two kinds to a `raise`, every other warning is appended (R270, R271). -/
theorem State.warn_cases (s : State) (k : EventKind) (i : Info) (off : Nat) :
    (s.params.strict = true ∧ k.promotable = true ∧ s.warn k i off = s.raise k i off) ∨
      ((s.params.strict = false ∨ k.promotable = false) ∧ s.warn k i off = s.log k i off) := by
  unfold State.warn
  split
  · rename_i h
    simp only [Bool.and_eq_true] at h
    exact .inl ⟨h.1, h.2, rfl⟩
  · rename_i h
    simp only [Bool.and_eq_true, not_and, Bool.not_eq_true] at h
    cases hs : s.params.strict
    · exact .inr ⟨.inl rfl, rfl⟩
    · exact .inr ⟨.inr (h hs), rfl⟩

/-- The duplicate warning is never promoted (R231, R274). -/
@[simp] theorem State.warn_duplicate (s : State) (i : Info) (off : Nat) :
    s.warn .duplicateFrameCapture i off = s.log .duplicateFrameCapture i off := by
  simp [State.warn, EventKind.promotable]

/-! ### The register file -/

@[simp] theorem RegFile.write_far (f : RegFile) (v : Word) (r : Reg) : (f.write v r).far = if r = .far then v else f.far := by
  cases r <;> rfl
@[simp] theorem RegFile.write_fdri (f : RegFile) (v : Word) (r : Reg) : (f.write v r).fdri = if r = .fdri then v else f.fdri := by
  cases r <;> rfl
@[simp] theorem RegFile.write_fdro (f : RegFile) (v : Word) (r : Reg) : (f.write v r).fdro = if r = .fdro then v else f.fdro := by
  cases r <;> rfl
@[simp] theorem RegFile.write_cmd (f : RegFile) (v : Word) (r : Reg) : (f.write v r).cmd = if r = .cmd then v else f.cmd := by
  cases r <;> rfl
@[simp] theorem RegFile.write_ctl (f : RegFile) (v : Word) (r : Reg) : (f.write v r).ctl = if r = .ctl then v else f.ctl := by
  cases r <;> rfl
@[simp] theorem RegFile.write_mask (f : RegFile) (v : Word) (r : Reg) : (f.write v r).mask = if r = .mask then v else f.mask := by
  cases r <;> rfl
@[simp] theorem RegFile.write_stat (f : RegFile) (v : Word) (r : Reg) : (f.write v r).stat = if r = .stat then v else f.stat := by
  cases r <;> rfl
@[simp] theorem RegFile.write_lout (f : RegFile) (v : Word) (r : Reg) : (f.write v r).lout = if r = .lout then v else f.lout := by
  cases r <;> rfl
@[simp] theorem RegFile.write_cor (f : RegFile) (v : Word) (r : Reg) : (f.write v r).cor = if r = .cor then v else f.cor := by
  cases r <;> rfl
@[simp] theorem RegFile.write_mfwr (f : RegFile) (v : Word) (r : Reg) : (f.write v r).mfwr = if r = .mfwr then v else f.mfwr := by
  cases r <;> rfl
@[simp] theorem RegFile.write_flr (f : RegFile) (v : Word) (r : Reg) : (f.write v r).flr = if r = .flr then v else f.flr := by
  cases r <;> rfl
@[simp] theorem RegFile.write_key (f : RegFile) (v : Word) (r : Reg) : (f.write v r).key = if r = .key then v else f.key := by
  cases r <;> rfl
@[simp] theorem RegFile.write_cbc (f : RegFile) (v : Word) (r : Reg) : (f.write v r).cbc = if r = .cbc then v else f.cbc := by
  cases r <;> rfl
@[simp] theorem RegFile.write_idcode (f : RegFile) (v : Word) (r : Reg) : (f.write v r).idcode = if r = .idcode then v else f.idcode := by
  cases r <;> rfl

/-- A payload word is what its register reads afterwards, the accumulator's address apart (R22, R23). -/
theorem State.storeReg_read_same (s : State) (r : Reg) (v : Word) (h : r ≠ .crc) : (s.storeReg r v).readReg r = v := by
  cases r <;> first | rfl | exact absurd rfl h

/-- A store leaves every other register as it was. -/
theorem State.storeReg_read_other (s : State) (r r' : Reg) (v : Word) (h : r' ≠ r) :
    (s.storeReg r v).readReg r' = s.readReg r' := by
  cases r <;> cases r' <;> first | rfl | exact absurd rfl h

/-- `regs[0]` is the accumulator (R23). -/
@[simp] theorem State.readReg_crc (s : State) : s.readReg .crc = s.crc.setWidth 32 := rfl

/-- The offset of the word just read is where the step found it. -/
@[simp] theorem State.wordOffset_payloadWrite (s : State) (r : Reg) (v : Word) : (s.payloadWrite r v).wordOffset = s.pos := by
  simp [State.wordOffset]

@[simp] theorem State.remaining_readWord (s : State) : s.readWord.remaining = s.remaining - 4 := by
  simp [State.remaining, Nat.sub_sub]

@[simp] theorem State.remaining_payloadWrite (s : State) (r : Reg) (v : Word) :
    (s.payloadWrite r v).remaining = s.remaining - 4 := by
  simp [State.remaining, Nat.sub_sub]

end Sys2Proof.Machine
end

