-- ==== Sys2Proof/Laws/Ops.lean ====
section
/-! SUPPORT. One lemma per shared operation that says once everything it can do. -/

namespace Sys2Proof.Machine

/-! ## thenStep -/

theorem thenStep_next {s : State} (h : s.st ≠ .failed) (k : State → Result) : thenStep (.next s) k = k s := by
  simp [thenStep, h]

theorem thenStep_ended {s : State} (h : s.st = .failed) (k : State → Result) : thenStep (.next s) k = .next s := by
  simp [thenStep, h]

/-- A step that answers a next state either ended in its first part, or went on. -/
theorem thenStep_cases {r : Result} {k : State → Result} {t : State} (h : thenStep r k = .next t) :
    ∃ s, r = .next s ∧ ((s.st = .failed ∧ t = s) ∨ (s.st ≠ .failed ∧ k s = .next t)) := by
  cases r with
  | next s =>
    refine ⟨s, rfl, ?_⟩
    by_cases hs : s.st = .failed
    · rw [thenStep_ended hs] at h
      exact .inl ⟨hs, by injection h with h; exact h.symm⟩
    · rw [thenStep_next hs] at h
      exact .inr ⟨hs, h⟩
  | fault f => cases h
  | refused x => cases h

/-! ## enter_data (spec/42_packet_framer.md R169) -/

/-- The three refusals of a payload and its two entries, each with its whole guard. -/
theorem enterData_cases (n : Nat) (w : Word) (off : Nat) (s : State) :
    (s.remaining < 4 * payloadNeed s.actReg n ∧ enterData n w off s = s.raise .truncatedInput (.header w) off) ∨
    (4 * payloadNeed s.actReg n ≤ s.remaining ∧
      ((s.actReg = some .fdri ∧ s.chip = none ∧ enterData n w off s = s.raise .noChipResolved (.header w) off) ∨
       (∃ c, s.actReg = some .fdri ∧ s.chip = some c ∧ n % c.frameWordLength ≠ 0 ∧
          enterData n w off s = s.raise .inconsistentFrameLength (.header w) off) ∨
       (∃ c, s.actReg = some .fdri ∧ s.chip = some c ∧ n % c.frameWordLength = 0 ∧
          enterData n w off s = (s.beginBurst n).beginPayload n) ∨
       (s.actReg ≠ some .fdri ∧ enterData n w off s = s.beginPayload n))) := by
  unfold enterData
  split
  · rename_i h
    exact .inl ⟨h, rfl⟩
  · rename_i h
    refine .inr ⟨Nat.le_of_not_lt h, ?_⟩
    split
    · rename_i hf
      split
      · rename_i hc
        exact .inl ⟨hf, hc, rfl⟩
      · rename_i c hc
        split
        · rename_i hm
          exact .inr (.inl ⟨c, hf, hc, hm, rfl⟩)
        · rename_i hm
          exact .inr (.inr (.inl ⟨c, hf, hc, not_not.1 hm, rfl⟩))
    · rename_i hf
      exact .inr (.inr (.inr ⟨hf, rfl⟩))

/-! ## Capture (spec/44_frame_store.md R230) -/

/-- The state after a frame has gone into a slot: a filled slot is logged, then the slot is written. -/
def capturedState (c : ChipDescriptor) (t : SlotTable) (k : SlotKey) (f : Frame) (off : Nat) (s : State) : State :=
  { (if (slotRead c t k).isSome then s.log .duplicateFrameCapture (.slot k) off else s) with
    store := some (slotWrite c t k f) }

@[simp] theorem capturedState_st (c : ChipDescriptor) (t : SlotTable) (k : SlotKey) (f : Frame) (off : Nat)
    (s : State) : (capturedState c t k f off s).st = s.st := by unfold capturedState; split <;> rfl
@[simp] theorem capturedState_pos (c : ChipDescriptor) (t : SlotTable) (k : SlotKey) (f : Frame) (off : Nat)
    (s : State) : (capturedState c t k f off s).pos = s.pos := by unfold capturedState; split <;> rfl
@[simp] theorem capturedState_crc (c : ChipDescriptor) (t : SlotTable) (k : SlotKey) (f : Frame) (off : Nat)
    (s : State) : (capturedState c t k f off s).crc = s.crc := by unfold capturedState; split <;> rfl
@[simp] theorem capturedState_regs (c : ChipDescriptor) (t : SlotTable) (k : SlotKey) (f : Frame) (off : Nat)
    (s : State) : (capturedState c t k f off s).regs = s.regs := by unfold capturedState; split <;> rfl
@[simp] theorem capturedState_actReg (c : ChipDescriptor) (t : SlotTable) (k : SlotKey) (f : Frame) (off : Nat)
    (s : State) : (capturedState c t k f off s).actReg = s.actReg := by unfold capturedState; split <;> rfl
@[simp] theorem capturedState_actOp (c : ChipDescriptor) (t : SlotTable) (k : SlotKey) (f : Frame) (off : Nat)
    (s : State) : (capturedState c t k f off s).actOp = s.actOp := by unfold capturedState; split <;> rfl
@[simp] theorem capturedState_budget (c : ChipDescriptor) (t : SlotTable) (k : SlotKey) (f : Frame) (off : Nat)
    (s : State) : (capturedState c t k f off s).budget = s.budget := by unfold capturedState; split <;> rfl
@[simp] theorem capturedState_fdTotal (c : ChipDescriptor) (t : SlotTable) (k : SlotKey) (f : Frame) (off : Nat)
    (s : State) : (capturedState c t k f off s).fdTotal = s.fdTotal := by unfold capturedState; split <;> rfl
@[simp] theorem capturedState_fdJ (c : ChipDescriptor) (t : SlotTable) (k : SlotKey) (f : Frame) (off : Nat)
    (s : State) : (capturedState c t k f off s).fdJ = s.fdJ := by unfold capturedState; split <;> rfl
@[simp] theorem capturedState_fdPhase (c : ChipDescriptor) (t : SlotTable) (k : SlotKey) (f : Frame) (off : Nat)
    (s : State) : (capturedState c t k f off s).fdPhase = s.fdPhase := by unfold capturedState; split <;> rfl
@[simp] theorem capturedState_asm (c : ChipDescriptor) (t : SlotTable) (k : SlotKey) (f : Frame) (off : Nat)
    (s : State) : (capturedState c t k f off s).asm = s.asm := by unfold capturedState; split <;> rfl
@[simp] theorem capturedState_pending (c : ChipDescriptor) (t : SlotTable) (k : SlotKey) (f : Frame) (off : Nat)
    (s : State) : (capturedState c t k f off s).pending = s.pending := by unfold capturedState; split <;> rfl
@[simp] theorem capturedState_pendFar (c : ChipDescriptor) (t : SlotTable) (k : SlotKey) (f : Frame) (off : Nat)
    (s : State) : (capturedState c t k f off s).pendFar = s.pendFar := by unfold capturedState; split <;> rfl
@[simp] theorem capturedState_chip (c : ChipDescriptor) (t : SlotTable) (k : SlotKey) (f : Frame) (off : Nat)
    (s : State) : (capturedState c t k f off s).chip = s.chip := by unfold capturedState; split <;> rfl
@[simp] theorem capturedState_err (c : ChipDescriptor) (t : SlotTable) (k : SlotKey) (f : Frame) (off : Nat)
    (s : State) : (capturedState c t k f off s).err = s.err := by unfold capturedState; split <;> rfl
@[simp] theorem capturedState_params (c : ChipDescriptor) (t : SlotTable) (k : SlotKey) (f : Frame) (off : Nat)
    (s : State) : (capturedState c t k f off s).params = s.params := by unfold capturedState; split <;> rfl
@[simp] theorem capturedState_input (c : ChipDescriptor) (t : SlotTable) (k : SlotKey) (f : Frame) (off : Nat)
    (s : State) : (capturedState c t k f off s).input = s.input := by unfold capturedState; split <;> rfl
@[simp] theorem capturedState_pins (c : ChipDescriptor) (t : SlotTable) (k : SlotKey) (f : Frame) (off : Nat)
    (s : State) : (capturedState c t k f off s).pins = s.pins := by unfold capturedState; split <;> rfl
@[simp] theorem capturedState_store (c : ChipDescriptor) (t : SlotTable) (k : SlotKey) (f : Frame) (off : Nat)
    (s : State) : (capturedState c t k f off s).store = some (slotWrite c t k f) := rfl

theorem capturedState_diag (c : ChipDescriptor) (t : SlotTable) (k : SlotKey) (f : Frame) (off : Nat) (s : State) :
    (capturedState c t k f off s).diag =
      if (slotRead c t k).isSome then
        s.diag ++ [{ kind := .duplicateFrameCapture, code := 8, info := .slot k, offset := off }]
      else s.diag := by
  unfold capturedState; split <;> rfl

/-- Everything a capture can answer: its four errors in their order, the write of one slot, and the fault of
the state no run reaches. -/
theorem capture_cases (frame : Option Frame) (far : Word) (off : Nat) (s : State) :
    (s.chip = none ∧ capture frame far off s = .next (s.raise .noChipResolved .none off)) ∨
    (∃ c, s.chip = some c ∧
      ((frame = none ∧ capture frame far off s = .next (s.raise .noPendingFrame .none off)) ∨
       (∃ f, frame = some f ∧
         ((slotOf c far = none ∧ capture frame far off s = .next (s.unrecognizedBlock far off)) ∨
          (∃ k, slotOf c far = some k ∧
            ((inGeometry c k = false ∧ capture frame far off s = .next (s.raise .outOfGeometry (.slot k) off)) ∨
             (inGeometry c k = true ∧
               ((s.store = none ∧ capture frame far off s = .fault .noSlotTable) ∨
                (∃ t, s.store = some t ∧ capture frame far off s = .next (capturedState c t k f off s)))))))))) := by
  unfold capture
  split
  · rename_i hc
    exact .inl ⟨hc, rfl⟩
  · rename_i c hc
    refine .inr ⟨c, hc, ?_⟩
    cases frame with
    | none => exact .inl ⟨rfl, rfl⟩
    | some f =>
      refine .inr ⟨f, rfl, ?_⟩
      cases hk : slotOf c far with
      | none => exact .inl ⟨rfl, rfl⟩
      | some k =>
        refine .inr ⟨k, rfl, ?_⟩
        by_cases hg : inGeometry c k = true
        · refine .inr ⟨hg, ?_⟩
          cases ht : s.store with
          | none =>
            refine .inl ⟨rfl, ?_⟩
            simp only []
            rw [if_pos hg]
            simp only [captureInto, ht]
          | some t =>
            refine .inr ⟨t, rfl, ?_⟩
            simp only []
            rw [if_pos hg]
            simp only [captureInto, ht, capturedState, State.warn_duplicate]
        · refine .inl ⟨by simpa using hg, ?_⟩
          simp only []
          rw [if_neg hg]

/-- Why a capture fails, in the order of R230: the error it raises and the error's argument. -/
inductive CaptureFails (frame : Option Frame) (far : Word) (s : State) : EventKind → Info → Prop where
  | chip (hc : s.chip = none) : CaptureFails frame far s .noChipResolved .none
  | frame (c : ChipDescriptor) (hc : s.chip = some c) (hf : frame = none) : CaptureFails frame far s .noPendingFrame .none
  | block (c : ChipDescriptor) (hc : s.chip = some c) (f : Frame) (hf : frame = some f) (hk : slotOf c far = none) :
      CaptureFails frame far s .unrecognizedBlock (.block (farDecode far).block far)
  | geometry (c : ChipDescriptor) (hc : s.chip = some c) (f : Frame) (hf : frame = some f) (k : SlotKey)
      (hk : slotOf c far = some k) (hg : inGeometry c k = false) : CaptureFails frame far s .outOfGeometry (.slot k)

/-- The four errors of a capture, as kinds. -/
theorem CaptureFails.kind {frame : Option Frame} {far : Word} {s : State} {e : EventKind} {i : Info}
    (h : CaptureFails frame far s e i) :
    e = .noChipResolved ∨ e = .noPendingFrame ∨ e = .unrecognizedBlock ∨ e = .outOfGeometry := by
  cases h <;> simp

/-- A capture that answers a next state failed, for one of its four reasons, or wrote its slot. -/
theorem capture_next {frame : Option Frame} {far : Word} {off : Nat} {s t : State} (h : capture frame far off s = .next t) :
    (∃ e i, CaptureFails frame far s e i ∧ t = s.raise e i off) ∨
    (∃ c f k a, s.chip = some c ∧ frame = some f ∧ slotOf c far = some k ∧ inGeometry c k = true ∧ s.store = some a ∧
      t = capturedState c a k f off s) := by
  rcases capture_cases frame far off s with
    ⟨hc, e⟩ | ⟨c, hc, ⟨hf, e⟩ | ⟨f, hf, ⟨hk, e⟩ | ⟨k, hk, ⟨hg, e⟩ | ⟨hg, ⟨_, e⟩ | ⟨a, ha, e⟩⟩⟩⟩⟩ <;> rw [e] at h
  · injection h with h; exact .inl ⟨_, _, .chip hc, h.symm⟩
  · injection h with h; exact .inl ⟨_, _, .frame c hc hf, h.symm⟩
  · injection h with h; exact .inl ⟨_, _, .block c hc f hf hk, h.symm⟩
  · injection h with h; exact .inl ⟨_, _, .geometry c hc f hf k hk hg, h.symm⟩
  · cases h
  · injection h with h; exact .inr ⟨c, f, k, a, hc, hf, hk, hg, ha, h.symm⟩

/-! ## The FAR increment (spec/41_far_codec.md R141, R146) -/

/-- A block names no region exactly when it is 3 (R133). -/
theorem regionOf_eq_none (c : ChipDescriptor) (b : BitVec 2) (m : BitVec 8) : regionOf c b m = none ↔ b = 3#2 := by
  have h : ∀ b : BitVec 2, b = 0#2 ∨ b = 1#2 ∨ b = 2#2 ∨ b = 3#2 := by decide
  rcases h b with rfl | rfl | rfl | rfl <;> simp [regionOf]

theorem farIncMinor_eq_none (c : ChipDescriptor) (f : FarFields) : farIncMinor c f = none ↔ f.block = 3#2 := by
  rw [← regionOf_eq_none c f.block f.major]
  unfold farIncMinor
  cases regionOf c f.block f.major with
  | none => simp
  | some r =>
    simp only [reduceCtorEq, iff_false]
    split
    · split <;> simp
    · simp

/-! ## Chip resolution (spec/43_register_writes.md R199, R220) -/

/-- The four outcomes of an IDCODE word: each ends in a next state. -/
theorem resolveChip_cases (v : Word) (s : State) :
    (findChip v s.params.chips = none ∧ resolveChip v s = .next (s.raise .unrecognizedChip (.idcode v) s.wordOffset)) ∨
    (∃ c, findChip v s.params.chips = some c ∧
      ((s.chip = some c ∧ resolveChip v s = .next s) ∨
       (∃ c0, s.chip = some c0 ∧ c0 ≠ c ∧ resolveChip v s = .next (s.raise .chipChanged (.idcode v) s.wordOffset)) ∨
       (s.chip = none ∧
         resolveChip v s = .next (flrCheck c { s with chip := some c, store := some (allocate c) })))) := by
  unfold resolveChip
  cases hf : findChip v s.params.chips with
  | none => exact .inl ⟨rfl, rfl⟩
  | some c =>
    refine .inr ⟨c, rfl, ?_⟩
    cases hc : s.chip with
    | none => exact .inr (.inr ⟨rfl, by simp⟩)
    | some c0 =>
      by_cases h : c0 = c
      · exact .inl ⟨by rw [h], by simp [h]⟩
      · exact .inr (.inl ⟨c0, rfl, h, by simp [h]⟩)

/-- The two bounds of R137. -/
theorem inGeometry_iff (c : ChipDescriptor) (k : SlotKey) :
    inGeometry c k = true ↔ k.column < c.columnCount.get k.region ∧ k.frame < c.frameCount.get k.region := by
  simp [inGeometry]

/-- The two halves of R9. -/
theorem chipTableOk_iff (chips : List ChipDescriptor) :
    chipTableOk chips = true ↔ (∀ c ∈ chips, chipOk c = true) ∧ (chips.map (fun c => c.idcode)).Nodup := by
  simp [chipTableOk]

/-- The constraints of R9 on one entry. -/
theorem chipOk_iff (c : ChipDescriptor) :
    chipOk c = true ↔ 1 ≤ c.frameWordLength ∧ c.frameWordLength < 2 ^ 32 ∧
      (∀ r ∈ Region.all, 1 ≤ c.frameCount.get r ∧ c.frameCount.get r ≤ 256) ∧
      c.columnCount.clb + 5 ≤ 255 ∧ c.columnCount.bram ≤ 256 ∧ c.columnCount.bramInt ≤ 256 ∧
      1 ≤ c.columnCount.gclk :=
  decide_eq_true_iff

/-- A chip found by its idcode is an entry of the table with that idcode. -/
theorem findChip_some {v : Word} {chips : List ChipDescriptor} {c : ChipDescriptor} (h : findChip v chips = some c) :
    c ∈ chips ∧ c.idcode = v :=
  ⟨List.mem_of_find?_eq_some h, by simpa using List.find?_some h⟩

/-! ## Dispatch (spec/43_register_writes.md R200) -/

/-- The hook runs exactly the row of the opcode table that the code is. -/
theorem dispatch_eq_exec (code : Word) (s : State) : dispatch code s = exec (decodeCommand code) s := by
  unfold dispatch decodeCommand
  generalize code.toNat = n
  split
  case h_15 h0 h1 h2 h3 h4 h5 h6 h7 h8 h9 h10 h11 h12 h13 =>
    first | rfl | (split <;> first | rfl | contradiction)
  all_goals rfl

/-- The hook by the code alone (R200): MFWR captures, RCRC clears, every other code is logged. -/
theorem dispatch_cases (code : Word) (s : State) :
    (code = 2#32 ∧ dispatch code s = capture s.pending s.regs.far s.wordOffset s) ∨
    (code = 7#32 ∧ dispatch code s = .next (s.setCrc 0#16)) ∨
    (code ≠ 2#32 ∧ code ≠ 7#32 ∧ dispatch code s = .next (s.log .commandIgnored (.command code) s.wordOffset)) := by
  have small : ∀ n : Nat, n < 2 ^ 32 → code.toNat = n → code = BitVec.ofNat 32 n := by
    intro n hn h
    rw [← h, BitVec.ofNat_toNat, BitVec.setWidth_eq]
  unfold dispatch
  split
  case h_3 h => exact .inl ⟨small 2 (by decide) h, rfl⟩
  case h_8 h => exact .inr (.inl ⟨small 7 (by decide) h, rfl⟩)
  case h_15 h0 h1 h2 h3 h4 h5 h6 h7 h8 h9 h10 h11 h12 h13 =>
    exact .inr (.inr ⟨fun e => h2 (by rw [e]; rfl), fun e => h7 (by rw [e]; rfl), rfl⟩)
  all_goals
    rename_i h
    have hc := small _ (by decide) h
    subst hc
    exact .inr (.inr ⟨by decide, by decide, rfl⟩)

/-! ## Payload words -/

/-- A hooked write answers what its hook answers, and counts the word unless the hook ended the step (R221). -/
theorem hookedWrite_cases {r : Reg} {v : Word} {hook : State → Result} {s t : State}
    (h : hookedWrite r v hook s = .next t) :
    ∃ s', hook (s.payloadWrite r v) = .next s' ∧ ((s'.st = .failed ∧ t = s') ∨ (s'.st ≠ .failed ∧ t = s'.finishPayload)) := by
  obtain ⟨s', h1, h2⟩ := thenStep_cases h
  refine ⟨s', h1, ?_⟩
  rcases h2 with h2 | ⟨h2, h3⟩
  · exact .inl h2
  · injection h3 with h3
    exact .inr ⟨h2, h3.symm⟩

/-- The end of a frame: FAR advances once, or the block is 3 and the step ends (R185). -/
theorem endFrame_cases (c : ChipDescriptor) (s : State) :
    (∃ w, farInc s.params.frameStepEntry c s.regs.far = some w ∧
        endFrame c s = ({ s with pending := some s.asm } : State).setFar w) ∨
    (farInc s.params.frameStepEntry c s.regs.far = none ∧
        endFrame c s =
          ({ s with pending := some s.asm } : State).unrecognizedBlock s.regs.far s.wordOffset) := by
  unfold endFrame
  cases h : farInc s.params.frameStepEntry c s.regs.far with
  | none => exact .inr ⟨rfl, rfl⟩
  | some w => exact .inl ⟨w, rfl, rfl⟩

/-- Everything an FDRI payload word does when it answers a next state (R184): the capture of the previous frame
ended the step before the read; or FAR's advance ended it after the append; or the word was counted. -/
theorem fdriStep_cases {c : ChipDescriptor} {v : Word} {s t : State} (h : fdriStep c v s = .next t) :
    ∃ s1, (if s.fdJ % c.frameWordLength = 0 then beginFrame s else .next s) = .next s1 ∧
      ((s1.st = .failed ∧ t = s1) ∨
       (s1.st ≠ .failed ∧ ∃ s3,
          s3 = (if s.fdJ % c.frameWordLength + 1 = c.frameWordLength then endFrame c (appendWord v s1) else appendWord v s1) ∧
          ((s3.st = .failed ∧ t = s3) ∨ (s3.st ≠ .failed ∧ t = countBurstWord s3)))) := by
  obtain ⟨s1, h1, h2⟩ := thenStep_cases h
  refine ⟨s1, h1, ?_⟩
  rcases h2 with h2 | ⟨h2, h3⟩
  · exact .inl h2
  · obtain ⟨s3, h4, h5⟩ := thenStep_cases h3
    injection h4 with h4
    refine .inr ⟨h2, s3, h4.symm, ?_⟩
    rcases h5 with h5 | ⟨h5, h6⟩
    · exact .inl h5
    · injection h6 with h6
      exact .inr ⟨h5, h6.symm⟩

/-- The start of a frame (R184): the previous frame of the burst is captured first, unless this is the first. -/
theorem beginFrame_cases {s t : State} (h : beginFrame s = .next t) :
    (s.fdJ = 0 ∧ s.st = .failed ∧ t = s) ∨
    (s.fdJ = 0 ∧ s.st ≠ .failed ∧ t = { s with pendFar := s.regs.far, asm := [] }) ∨
    (0 < s.fdJ ∧ ∃ s', capture s.pending s.pendFar s.pos s = .next s' ∧
      ((s'.st = .failed ∧ t = s') ∨ (s'.st ≠ .failed ∧ t = { s' with pendFar := s'.regs.far, asm := [] }))) := by
  obtain ⟨s', h1, h2⟩ := thenStep_cases h
  by_cases hj : 0 < s.fdJ
  · rw [if_pos hj] at h1
    refine .inr (.inr ⟨hj, s', h1, ?_⟩)
    rcases h2 with h2 | ⟨h2, h3⟩
    · exact .inl h2
    · injection h3 with h3
      exact .inr ⟨h2, h3.symm⟩
  · rw [if_neg hj] at h1
    injection h1 with h1
    subst h1
    have hz : s.fdJ = 0 := by omega
    rcases h2 with h2 | ⟨h2, h3⟩
    · exact .inl ⟨hz, h2⟩
    · injection h3 with h3
      exact .inr (.inl ⟨hz, h2, h3.symm⟩)

end Sys2Proof.Machine
end

