-- ==== Sys2Proof/Laws/FrameStore.lean ====
section
/-! SUPPORT. The slot table: the flat index names each slot in geometry once, and a write changes one slot. -/

namespace Sys2Proof.Machine

/-- The total of R232, region by region. -/
theorem totalSlots_eq (c : ChipDescriptor) :
    totalSlots c = regionSlots c .iob + regionSlots c .ioi + regionSlots c .clb + regionSlots c .bram +
      regionSlots c .bramInt + regionSlots c .gclk := by
  simp [totalSlots, Region.all, List.sum_cons]
  omega

/-- Inside its region's part of the table, a slot's offset is below the region's size. -/
theorem slotOffset_lt {c : ChipDescriptor} {k : SlotKey} (h : inGeometry c k = true) :
    k.column * c.frameCount.get k.region + k.frame < regionSlots c k.region := by
  obtain ⟨hc, hf⟩ := (inGeometry_iff c k).1 h
  have h1 : (k.column + 1) * c.frameCount.get k.region ≤ c.columnCount.get k.region * c.frameCount.get k.region :=
    Nat.mul_le_mul_right _ hc
  rw [Nat.add_mul, Nat.one_mul] at h1
  unfold regionSlots
  omega

/-- A region's part of the table ends inside the table. -/
theorem regionBase_add_le (c : ChipDescriptor) (r : Region) : regionBase c r + regionSlots c r ≤ totalSlots c := by
  rw [totalSlots_eq]
  cases r <;> simp only [regionBase] <;> omega

/-- Every slot in geometry has a place in the table (R232). -/
theorem flatIndex_lt {c : ChipDescriptor} {k : SlotKey} (h : inGeometry c k = true) : flatIndex c k < totalSlots c := by
  have h1 := slotOffset_lt h
  have h2 := regionBase_add_le c k.region
  unfold flatIndex
  omega

/-- Two slots in geometry at one flat index are one slot. -/
theorem flatIndex_inj {c : ChipDescriptor} {k k' : SlotKey} (h : inGeometry c k = true) (h' : inGeometry c k' = true)
    (e : flatIndex c k = flatIndex c k') : k = k' := by
  have b := slotOffset_lt h
  have b' := slotOffset_lt h'
  obtain ⟨r, col, f⟩ := k
  obtain ⟨r', col', f'⟩ := k'
  have hr : r = r' := by
    unfold flatIndex at e
    cases r <;> cases r' <;> first | rfl | (exfalso; simp only [regionBase] at e b b'; omega)
  subst hr
  have hf := ((inGeometry_iff _ _).1 h).2
  have hf' := ((inGeometry_iff _ _).1 h').2
  simp only [flatIndex] at e hf hf'
  have e' : col * c.frameCount.get r + f = col' * c.frameCount.get r + f' := by omega
  have hcol : col = col' := by
    rcases Nat.lt_trichotomy col col' with hlt | heq | hgt
    · have := Nat.mul_le_mul_right (c.frameCount.get r) (Nat.succ_le_of_lt hlt)
      rw [Nat.succ_mul] at this
      omega
    · exact heq
    · have := Nat.mul_le_mul_right (c.frameCount.get r) (Nat.succ_le_of_lt hgt)
      rw [Nat.succ_mul] at this
      omega
  subst hcol
  have : f = f' := by omega
  rw [this]

@[simp] theorem allocate_length (c : ChipDescriptor) : (allocate c).length = totalSlots c := by simp [allocate]

/-- Every slot of a new table is empty (R233). -/
@[simp] theorem slotRead_allocate (c d : ChipDescriptor) (k : SlotKey) : slotRead d (allocate c) k = none := by
  unfold slotRead allocate
  rw [List.getD_eq_getElem?_getD, List.getElem?_replicate]
  split <;> rfl

@[simp] theorem slotWrite_length (c : ChipDescriptor) (t : SlotTable) (k : SlotKey) (f : Frame) :
    (slotWrite c t k f).length = t.length := by simp [slotWrite]

/-- A slot holds the frame captured into it. -/
theorem slotRead_slotWrite_same {c : ChipDescriptor} {t : SlotTable} {k : SlotKey} (ht : t.length = totalSlots c)
    (h : inGeometry c k = true) (f : Frame) : slotRead c (slotWrite c t k f) k = some f := by
  have hlt : flatIndex c k < t.length := by rw [ht]; exact flatIndex_lt h
  simp [slotRead, slotWrite, List.getD_eq_getElem?_getD, hlt]

/-- A capture leaves every other slot as it was. -/
theorem slotRead_slotWrite_other {c : ChipDescriptor} {k k' : SlotKey} (t : SlotTable) (h : inGeometry c k = true)
    (h' : inGeometry c k' = true) (hne : k' ≠ k) (f : Frame) :
    slotRead c (slotWrite c t k f) k' = slotRead c t k' := by
  have hi : flatIndex c k ≠ flatIndex c k' := fun e => hne (flatIndex_inj h h' e).symm
  simp only [slotRead, slotWrite, List.getD_eq_getElem?_getD, List.getElem?_set_ne hi]

/-- What a written table holds is what it held, or the new frame. -/
theorem mem_slotWrite {c : ChipDescriptor} {t : SlotTable} {k : SlotKey} {f g : Frame}
    (h : some g ∈ slotWrite c t k f) : g = f ∨ some g ∈ t := by
  rcases List.mem_or_eq_of_mem_set h with h | h
  · exact .inr h
  · exact .inl (by injection h)

end Sys2Proof.Machine
end

