-- ==== Sys2Proof/Laws/Step.lean ====
section
/-! SUPPORT. What one step is, under each level of the pins and in each state. -/

namespace Sys2Proof.Machine

/-- The states in which `step` reads the stream. -/
abbrev State.Running (s : State) : Prop := s.st = .unsynced ∨ s.st = .waitingControl ∨ s.st = .waitingData

theorem step_refused {s : State} (h : chipTableOk s.params.chips = false) : step s = .refused .malformedChipTable := by
  simp [step, h]

theorem step_rst {s : State} (hc : chipTableOk s.params.chips = true) (h : s.pins.rst = true) : step s = .next s.rst := by
  simp [step, hc, h]

theorem step_idle {s : State} (hc : chipTableOk s.params.chips = true) (hr : s.pins.rst = false) (h : s.st = .idle) :
    step s = .next (if s.pins.start then s.startSession else s) := by
  simp [step, hc, hr, h]

theorem step_running {s : State} (hc : chipTableOk s.params.chips = true) (hr : s.pins.rst = false) (hs : s.pins.step = true)
    (h : s.Running) : step s = wordStep s := by
  rcases h with h | h | h <;> simp [step, hc, hr, hs, h]

theorem step_terminal {s : State} (hc : chipTableOk s.params.chips = true) (hr : s.pins.rst = false)
    (h : s.st = .done ∨ s.st = .failed) : step s = .next s := by
  rcases h with h | h <;> simp [step, hc, hr, h]

/-- Everything a step that answers a next state can be. -/
theorem step_cases {s t : State} (h : step s = .next t) :
    chipTableOk s.params.chips = true ∧
    ((s.pins.rst = true ∧ t = s.rst) ∨
     (s.pins.rst = false ∧ s.st = .idle ∧ s.pins.start = true ∧ t = s.startSession) ∨
     (s.pins.rst = false ∧ s.Running ∧ s.pins.step = true ∧ wordStep s = .next t) ∨
     (s.pins.rst = false ∧ (s.st = .idle → s.pins.start = false) ∧ (s.Running → s.pins.step = false) ∧ t = s)) := by
  by_cases hc : chipTableOk s.params.chips = true
  · refine ⟨hc, ?_⟩
    cases hr : s.pins.rst with
    | true =>
      rw [step_rst hc hr] at h
      injection h with h
      exact .inl ⟨rfl, h.symm⟩
    | false =>
      cases hst : s.st with
      | idle =>
        rw [step_idle hc hr hst] at h
        injection h with h
        cases hp : s.pins.start <;> simp only [hp] at h
        · exact .inr (.inr (.inr ⟨rfl, fun _ => rfl, by simp [State.Running, hst], h.symm⟩))
        · exact .inr (.inl ⟨rfl, rfl, rfl, h.symm⟩)
      | done =>
        rw [step_terminal hc hr (.inl hst)] at h
        injection h with h
        exact .inr (.inr (.inr ⟨rfl, by simp, by simp [State.Running, hst], h.symm⟩))
      | failed =>
        rw [step_terminal hc hr (.inr hst)] at h
        injection h with h
        exact .inr (.inr (.inr ⟨rfl, by simp, by simp [State.Running, hst], h.symm⟩))
      | unsynced | waitingControl | waitingData =>
        cases hp : s.pins.step with
        | true =>
          have hrun : s.Running := by simp [State.Running, hst]
          rw [step_running hc hr hp hrun] at h
          exact .inr (.inr (.inl ⟨rfl, hrun, rfl, h⟩))
        | false =>
          simp [step, hc, hr, hst, hp] at h
          exact .inr (.inr (.inr ⟨rfl, by simp, fun _ => rfl, h.symm⟩))
  · rw [step_refused (by simpa using hc)] at h
    cases h

/-- The word at the cursor: the bytes decode under the state's reading, and the rest of the buffer is not looked at. -/
theorem fetch_word {s : State} (hr : 4 ≤ s.remaining) {c : WordContext} (hc : s.context = some c) :
    s.fetch = .word (decodeWord c (s.input.readWord s.pos)) := by
  have hlt : ¬ s.remaining < 4 := by omega
  simp [State.fetch, hlt, hc, Memory.wordBytes, decode, Memory.readWord]

theorem fetch_end {s : State} (hr : s.remaining < 4) : s.fetch = s.atEndOfInput := by
  simp [State.fetch, hr]

/-- A running state reads a word under one class, or ends, or is one that no run reaches. -/
theorem wordStep_cases {s t : State} (hrun : s.Running) (h : wordStep s = .next t) :
    (s.remaining < 4 ∧ s.st = .unsynced ∧ t = s.desync) ∨
    (s.remaining < 4 ∧ s.st = .waitingControl ∧ t = s.endSession) ∨
    (4 ≤ s.remaining ∧ ∃ c, s.context = some c ∧ exec (decodeWord c (s.input.readWord s.pos)) s = .next t) := by
  by_cases hr : s.remaining < 4
  · simp only [wordStep, fetch_end hr, State.atEndOfInput] at h
    rcases hrun with hs | hs | hs <;> simp only [hs] at h
    · injection h with h
      exact .inl ⟨hr, hs, h.symm⟩
    · injection h with h
      exact .inr (.inl ⟨hr, hs, h.symm⟩)
    · cases h
  · refine .inr (.inr ⟨by omega, ?_⟩)
    cases hc : s.context with
    | none =>
      simp [wordStep, State.fetch, hr, hc] at h
    | some c =>
      refine ⟨c, rfl, ?_⟩
      simpa [wordStep, fetch_word (by omega) hc] using h

/-- The reading a state gives is the class of every word decoded under it, so a decoded word stands in its own row's state. -/
theorem context_cases {s : State} {c : WordContext} (h : s.context = some c) :
    (s.st = .unsynced ∧ c = .unsynced) ∨ (s.st = .waitingControl ∧ c = .control) ∨
    (s.st = .waitingData ∧ s.actReg = some .fdri ∧ s.fdPhase = .autoCrc ∧ c = .autoCrc) ∨
    (∃ r, s.st = .waitingData ∧ s.actReg = some r ∧ 0 < s.budget ∧ ¬ (r = .fdri ∧ s.fdPhase = .autoCrc) ∧ c = .data r) := by
  unfold State.context at h
  split at h
  · cases h
  · rename_i hs; injection h with h; exact .inl ⟨hs, h.symm⟩
  · rename_i hs; injection h with h; exact .inr (.inl ⟨hs, h.symm⟩)
  · rename_i hs
    split at h
    · cases h
    · rename_i r hr
      split at h
      · rename_i hp
        injection h with h
        exact .inr (.inr (.inl ⟨hs, by rw [hr, hp.1], hp.2, h.symm⟩))
      · rename_i hp
        split at h
        · rename_i hb
          injection h with h
          exact .inr (.inr (.inr ⟨r, hs, hr, hb, hp, h.symm⟩))
        · cases h
  · cases h
  · cases h

end Sys2Proof.Machine
end

