-- ==== Sys2Proof/Laws/Exec.lean ====
section
/-! SUPPORT. Said once: everything the meaning of a word can do when it answers a next state, by the state it
is read in, and from that everything a step can do. -/

namespace Sys2Proof.Machine

/-! ## Words of the headers -/

/-- The error kinds a header can raise (R165-R169). -/
abbrev EventKind.OfHeader (k : EventKind) : Prop :=
  k = .malformedPacket ∨ k = .truncatedInput ∨ k = .noChipResolved ∨ k = .inconsistentFrameLength

/-- What a header leaves, from the state `s` it is read in. `Selected s s0`: the word is read, and the active
register is as it was or the header's. -/
inductive Selected (s : State) : State → Prop where
  | same : Selected s s.readWord
  | select (r : Reg) (o : PacketOp) : Selected s { s.readWord with actReg := some r, actOp := o }

inductive HeaderShape (s : State) : State → Prop where
  | stay {s0 : State} (h : Selected s s0) : HeaderShape s s0
  | fail {s0 : State} (h : Selected s s0) (k : EventKind) (hk : k.OfHeader) (w : Word) :
      HeaderShape s (s0.raise k (.header w) s.pos)
  | enter {s0 : State} (h : Selected s s0) (r : Reg) (hr : s0.actReg = some r) (hf : r ≠ .fdri) (n : Nat) (h0 : 0 < n)
      (hn : n < 2 ^ 27) (hrem : 4 * n ≤ s0.remaining) : HeaderShape s (s0.beginPayload n)
  | burst {s0 : State} (h : Selected s s0) (hr : s0.actReg = some .fdri) (c : ChipDescriptor) (hc : s.chip = some c)
      (n : Nat) (h0 : 0 < n) (hn : n < 2 ^ 27) (hrem : 4 * (n + 1) ≤ s0.remaining) (hm : n % c.frameWordLength = 0) :
      HeaderShape s ((s0.beginBurst n).beginPayload n)

theorem headerPayload_shape {s s0 : State} (h : Selected s s0) (ha : s0.actReg ≠ none) (n : Nat) (hn : n < 2 ^ 27) (w : Word) :
    HeaderShape s (headerPayload n w s.pos s0) := by
  have hchip : s0.chip = s.chip := by cases h <;> rfl
  unfold headerPayload
  split
  · exact .stay h
  · rename_i h0
    have h0 : 0 < n := by omega
    rcases enterData_cases n w s.pos s0 with ⟨_, e⟩ | ⟨hrem, ⟨hf, hc, e⟩ | ⟨c, hf, hc, hm, e⟩ | ⟨c, hf, hc, hm, e⟩ | ⟨hf, e⟩⟩ <;>
      rw [e]
    · exact .fail h .truncatedInput (by decide) _
    · exact .fail h .noChipResolved (by decide) _
    · exact .fail h .inconsistentFrameLength (by decide) _
    · exact .burst h hf c (hchip ▸ hc) n h0 hn (by simpa [payloadNeed, hf] using hrem) hm
    · cases hr : s0.actReg with
      | none => exact absurd hr ha
      | some r =>
        have hf' : r ≠ .fdri := by rintro rfl; exact hf hr
        exact .enter h r hr hf' n h0 hn (by simpa [payloadNeed, hf] using hrem)

theorem t1Step_shape (o : PacketOp) (r : Reg) (n : BitVec 11) (s : State) :
    ∃ t, t1Step o r n s = .next t ∧ HeaderShape s t :=
  ⟨_, rfl, headerPayload_shape (.select r o) (by simp) _ (by omega) _⟩

theorem illegalStep_shape (w : Word) (s : State) : ∃ t, illegalStep w s = .next t ∧ HeaderShape s t :=
  ⟨_, rfl, .fail .same .malformedPacket (by decide) _⟩

theorem exec_t1w (r : Reg) (n : BitVec 11) (s : State) : exec (Instr.t1w r n) s = t1Step .write r n s := by cases r <;> rfl
theorem exec_t1r (r : Reg) (n : BitVec 11) (s : State) : exec (Instr.t1r r n) s = t1Step .read r n s := by cases r <;> rfl

theorem exec_t2_shape (op : BitVec 2) (n : BitVec 27) (s : State) :
    ∃ t, exec (.t2 op n) s = .next t ∧ HeaderShape s t := by
  show ∃ t, execT2 op n s = .next t ∧ _
  unfold execT2
  split
  · exact illegalStep_shape _ s
  · rename_i h
    exact ⟨_, rfl, headerPayload_shape .same h _ n.isLt _⟩

theorem exec_decodeT1_shape (o : PacketOp) (w : Word) (s : State) :
    ∃ t, exec (decodeT1 o w) s = .next t ∧ HeaderShape s t := by
  unfold decodeT1
  cases o <;> simp only <;> split
  · split
    · rename_i e; rw [exec_t1r]; exact t1Step_shape _ _ _ _
    · rename_i e; cases e
    · exact illegalStep_shape _ s
  · exact illegalStep_shape _ s
  · split
    · rename_i e; cases e
    · rw [exec_t1w]; exact t1Step_shape _ _ _ _
    · exact illegalStep_shape _ s
  · exact illegalStep_shape _ s

/-- Every word read in `WaitingControl` answers a next state. -/
theorem exec_classify_shape (w : Word) (s : State) : ∃ t, exec (classify w) s = .next t ∧ HeaderShape s t := by
  unfold classify
  split
  case h_2 =>
    split
    · exact ⟨_, rfl, .stay .same⟩
    · exact exec_decodeT1_shape .read w s
    · exact exec_decodeT1_shape .write w s
    · exact illegalStep_shape _ s
  case h_3 => exact exec_t2_shape _ _ s
  all_goals exact illegalStep_shape _ s

/-! ## Words of a payload -/

/-- The code that a payload word `v` of `r` dispatches, `s1` being the state after its store (R182, R189): a CMD
word its own, a FAR word the retained one. -/
abbrev Dispatches (v : Word) (s1 : State) (r : Reg) (code : Word) : Prop :=
  (r = .cmd ∧ code = v) ∨ (r = .far ∧ code = s1.regs.cmd)

/-- What the hook of a payload word of `r` makes of `s1`, the state after the word's read, fold and store. -/
inductive HookShape (v : Word) (s1 : State) : Reg → State → Prop where
  | same {r : Reg} (hf : r ≠ .fdri) (hc : r ≠ .cmd) (ha : r ≠ .far) : HookShape v s1 r s1
  | residual (h : s1.crc ≠ 0) (hs : s1.params.strict = false) :
      HookShape v s1 .crc (s1.log .crcResidualNonzero (.residual s1.crc) s1.wordOffset)
  | residualFail (h : s1.crc ≠ 0) (hs : s1.params.strict = true) :
      HookShape v s1 .crc (s1.raise .crcResidualNonzero (.residual s1.crc) s1.wordOffset)
  | ignored {r : Reg} (code : Word) (hr : Dispatches v s1 r code) (h2 : code ≠ 2#32) (h7 : code ≠ 7#32) :
      HookShape v s1 r (s1.log .commandIgnored (.command code) s1.wordOffset)
  | clear {r : Reg} (hr : Dispatches v s1 r 7#32) : HookShape v s1 r (s1.setCrc 0#16)
  | captured {r : Reg} (hr : Dispatches v s1 r 2#32) (c : ChipDescriptor) (hc : s1.chip = some c) (f : Frame)
      (hf : s1.pending = some f) (k : SlotKey) (hk : slotOf c s1.regs.far = some k) (hg : inGeometry c k = true)
      (t : SlotTable) (ht : s1.store = some t) : HookShape v s1 r (capturedState c t k f s1.wordOffset s1)
  | captureFail {r : Reg} (hr : Dispatches v s1 r 2#32) (e : EventKind) (i : Info)
      (he : CaptureFails s1.pending s1.regs.far s1 e i) :
      HookShape v s1 r (s1.raise e i s1.wordOffset)
  | resolved (c : ChipDescriptor) (hm : c ∈ s1.params.chips) (hv : c.idcode = v) (hn : s1.chip = none) :
      HookShape v s1 .idcode { s1 with chip := some c, store := some (allocate c) }
  | resolvedMismatch (c : ChipDescriptor) (hm : c ∈ s1.params.chips) (hv : c.idcode = v) (hn : s1.chip = none)
      (hs : s1.params.strict = false) (i : Info) :
      HookShape v s1 .idcode
        (State.log { s1 with chip := some c, store := some (allocate c) } .geometryMismatch i s1.wordOffset)
  | resolvedFail (c : ChipDescriptor) (hm : c ∈ s1.params.chips) (hv : c.idcode = v) (hn : s1.chip = none)
      (hs : s1.params.strict = true) (i : Info) :
      HookShape v s1 .idcode
        (State.raise { s1 with chip := some c, store := some (allocate c) } .geometryMismatch i s1.wordOffset)
  | resolveFail (e : EventKind) (he : e = .unrecognizedChip ∨ e = .chipChanged) (i : Info) :
      HookShape v s1 .idcode (s1.raise e i s1.wordOffset)

theorem dispatch_shape {v code : Word} {s1 u : State} {r : Reg} (hr : Dispatches v s1 r code)
    (h : dispatch code s1 = .next u) : HookShape v s1 r u := by
  rcases dispatch_cases code s1 with ⟨h0, e⟩ | ⟨h0, e⟩ | ⟨h2, h7, e⟩ <;> rw [e] at h
  · subst h0
    rcases capture_next h with ⟨e, i, he, rfl⟩ | ⟨c, f, k, t, hc, hf, hk, hg, ht, rfl⟩
    · exact .captureFail hr e i he
    · exact .captured hr c hc f hf k hk hg t ht
  · subst h0; injection h with h; subst h; exact .clear hr
  · injection h with h; subst h; exact .ignored code hr h2 h7

theorem residualCheck_shape {v : Word} {s1 u : State} (h : residualCheck s1 = .next u) : HookShape v s1 .crc u := by
  unfold residualCheck at h
  split at h
  · rename_i hc
    injection h with h; subst h
    cases hs : s1.params.strict with
    | false => simpa [State.warn, hs] using HookShape.residual hc hs
    | true => simpa [State.warn, hs, EventKind.promotable] using HookShape.residualFail hc hs
  · injection h with h; subst h; exact .same (by simp) (by simp) (by simp)

theorem resolveChip_shape {v : Word} {s1 u : State} (h : resolveChip v s1 = .next u) : HookShape v s1 .idcode u := by
  rcases resolveChip_cases v s1 with ⟨_, e⟩ | ⟨c, hc, ⟨_, e⟩ | ⟨c0, _, _, e⟩ | ⟨hn, e⟩⟩ <;> rw [e] at h <;>
    injection h with h <;> subst h
  · exact .resolveFail _ (by simp) _
  · exact .same (by simp) (by simp) (by simp)
  · exact .resolveFail _ (by simp) _
  · obtain ⟨hm, hv⟩ := findChip_some hc
    unfold flrCheck
    split
    · cases hs : s1.params.strict with
      | false => simp only [State.warn, hs]; exact .resolvedMismatch c hm hv hn hs _
      | true => simp only [State.warn, hs]; exact .resolvedFail c hm hv hn hs _
    · exact .resolved c hm hv hn

/-- A payload word of any register but FDRI: its hook, then the count, unless the hook ended the step. -/
theorem exec_data_shape {r : Reg} {v : Word} {s t : State} (hf : r ≠ .fdri) (hst : s.st ≠ .failed)
    (h : exec (Instr.data r v) s = .next t) :
    ∃ u, HookShape v (s.payloadWrite r v) r u ∧ ((u.st = .failed ∧ t = u) ∨ (u.st ≠ .failed ∧ t = u.finishPayload)) := by
  have hooked : ∀ hook, (∀ s1 u, hook s1 = .next u → HookShape v s1 r u) → hookedWrite r v hook s = .next t →
      ∃ u, HookShape v (s.payloadWrite r v) r u ∧
        ((u.st = .failed ∧ t = u) ∨ (u.st ≠ .failed ∧ t = u.finishPayload)) := by
    intro hook hk h
    obtain ⟨u, h1, h2⟩ := hookedWrite_cases h
    exact ⟨u, hk _ _ h1, h2⟩
  have plain : r ≠ .cmd → r ≠ .far → plainWrite r v s = .next t →
      ∃ u, HookShape v (s.payloadWrite r v) r u ∧
        ((u.st = .failed ∧ t = u) ∨ (u.st ≠ .failed ∧ t = u.finishPayload)) := by
    intro hc ha h
    injection h with h
    exact ⟨_, .same hf hc ha, .inr ⟨hst, h.symm⟩⟩
  cases r with
  | crc => exact hooked _ (fun _ _ => residualCheck_shape) h
  | far => exact hooked _ (fun _ _ => dispatch_shape (.inr ⟨rfl, rfl⟩)) h
  | cmd => exact hooked _ (fun _ _ => dispatch_shape (.inl ⟨rfl, rfl⟩)) h
  | idcode => exact hooked _ (fun _ _ => resolveChip_shape) h
  | fdri => exact absurd rfl hf
  | fdro | ctl | mask | stat | lout | cor | mfwr | flr | key | cbc => exact plain (by decide) (by decide) h

/-- What the state is after the start of a frame that goes on, and after the capture of the previous one. -/
inductive FrameBegun (c : ChipDescriptor) (s : State) : State → Prop where
  | inside (h : s.fdJ % c.frameWordLength ≠ 0) : FrameBegun c s s
  | first (h : s.fdJ = 0) : FrameBegun c s { s with pendFar := s.regs.far, asm := [] }
  | later (h : 0 < s.fdJ) (hj : s.fdJ % c.frameWordLength = 0) (f : Frame) (hf : s.pending = some f) (k : SlotKey)
      (hk : slotOf c s.pendFar = some k) (hg : inGeometry c k = true) (t : SlotTable) (ht : s.store = some t) :
      FrameBegun c s { capturedState c t k f s.pos s with pendFar := s.regs.far, asm := [] }

/-- What an FDRI payload word leaves, on the chip `c`. -/
inductive BurstShape (c : ChipDescriptor) (v : Word) (s : State) : State → Prop where
  | captureFail (h : 0 < s.fdJ) (hj : s.fdJ % c.frameWordLength = 0) (e : EventKind) (i : Info)
      (he : CaptureFails s.pending s.pendFar s e i) :
      BurstShape c v s (s.raise e i s.pos)
  | word {s1 : State} (h : FrameBegun c s s1) (hk : s.fdJ % c.frameWordLength + 1 ≠ c.frameWordLength) :
      BurstShape c v s (countBurstWord (appendWord v s1))
  | frame {s1 : State} (h : FrameBegun c s s1) (hk : s.fdJ % c.frameWordLength + 1 = c.frameWordLength) (w : Word)
      (hw : farInc s.params.frameStepEntry c s.regs.far = some w) :
      BurstShape c v s
        (countBurstWord (State.setFar { appendWord v s1 with pending := some (appendWord v s1).asm } w))
  | advanceFail {s1 : State} (h : FrameBegun c s s1) (hk : s.fdJ % c.frameWordLength + 1 = c.frameWordLength)
      (hw : farInc s.params.frameStepEntry c s.regs.far = none) :
      BurstShape c v s
        (State.unrecognizedBlock { appendWord v s1 with pending := some (appendWord v s1).asm } s.regs.far s.pos)

theorem exec_fdri_shape {c : ChipDescriptor} {v : Word} {s t : State} (hc : s.chip = some c) (hst : s.st = .waitingData)
    (h : exec (.dataFdri v) s = .next t) : BurstShape c v s t := by
  have h : execDataFdri v s = .next t := h
  rw [execDataFdri, hc] at h
  obtain ⟨s1, h1, h2⟩ := fdriStep_cases h
  have fin : ∀ s1, FrameBegun c s s1 → s1.st = .waitingData → s1.pos = s.pos →
      (∃ s3,
          s3 = (if s.fdJ % c.frameWordLength + 1 = c.frameWordLength then endFrame c (appendWord v s1) else appendWord v s1) ∧
          ((s3.st = .failed ∧ t = s3) ∨ (s3.st ≠ .failed ∧ t = countBurstWord s3))) → BurstShape c v s t := by
    intro s1 hb hs1 hpos ⟨s3, e3, h3⟩
    have hfar : (appendWord v s1).regs.far = s.regs.far := by cases hb <;> simp [RegFile.write]
    have hpar : (appendWord v s1).params = s.params := by cases hb <;> simp
    split at e3
    · rename_i hk
      rcases endFrame_cases c (appendWord v s1) with ⟨w, hw, e⟩ | ⟨hw, e⟩ <;> rw [hpar, hfar] at hw <;>
        rw [e] at e3 <;> subst e3
      · rcases h3 with ⟨hf, _⟩ | ⟨_, rfl⟩
        · simp [hs1] at hf
        · exact .frame hb hk w hw
      · rcases h3 with ⟨_, rfl⟩ | ⟨hf, _⟩
        · have : (appendWord v s1).wordOffset = s.pos := by simp [State.wordOffset, hpos]
          rw [this, hfar]
          exact .advanceFail hb hk hw
        · simp at hf
    · rename_i hk
      subst e3
      rcases h3 with ⟨hf, _⟩ | ⟨_, rfl⟩
      · simp [hs1] at hf
      · exact .word hb hk
  by_cases hj : s.fdJ % c.frameWordLength = 0
  · rw [if_pos hj] at h1
    rcases beginFrame_cases h1 with ⟨_, hs, _⟩ | ⟨h0, _, rfl⟩ | ⟨h0, s', hcap, h4⟩
    · rw [hst] at hs; cases hs
    · rcases h2 with ⟨hs, _⟩ | ⟨_, h3⟩
      · exact absurd (hst.symm.trans hs) (by decide)
      · exact fin _ (.first h0) hst rfl h3
    · rcases capture_next hcap with ⟨e, i, he, rfl⟩ | ⟨c', f, k, t', hc', hf, hk, hg, ht, rfl⟩
      · rcases h4 with ⟨_, rfl⟩ | ⟨hs, _⟩
        · rcases h2 with ⟨_, rfl⟩ | ⟨hs, _⟩
          · exact .captureFail h0 hj e i he
          · exact absurd rfl hs
        · exact absurd rfl hs
      · rw [hc] at hc'; injection hc' with hc'; subst hc'
        have hst' : (capturedState c t' k f s.pos s).st = .waitingData := by
          unfold capturedState; split <;> simpa using hst
        have hpos' : (capturedState c t' k f s.pos s).pos = s.pos := by
          unfold capturedState; split <;> rfl
        have hreg' : (capturedState c t' k f s.pos s).regs.far = s.regs.far := by
          unfold capturedState; split <;> rfl
        rcases h4 with ⟨hs, _⟩ | ⟨_, rfl⟩
        · rw [hst'] at hs; cases hs
        · rw [hreg'] at h2
          rcases h2 with ⟨hs, _⟩ | ⟨_, h3⟩
          · exact absurd (hst'.symm.trans hs) (by decide)
          · exact fin _ (.later h0 hj f hf k hk hg t' ht) hst' hpos' h3
  · rw [if_neg hj] at h1
    injection h1 with h1; subst h1
    rcases h2 with ⟨hs, _⟩ | ⟨_, h3⟩
    · exact absurd (hst.symm.trans hs) (by decide)
    · exact fin _ (.inside hj) hst rfl h3

/-! ## A step -/

/-- Everything a step with `rst` released can be, when it answers a next state. -/
inductive StepShape (s : State) : State → Prop where
  | stay (hi : s.st = .idle → s.pins.start = false) (hr : s.Running → s.pins.step = false) : StepShape s s
  | start (h : s.st = .idle) (hp : s.pins.start = true) : StepShape s s.startSession
  | desync (h : s.st = .unsynced) (hr : s.remaining < 4) : StepShape s s.desync
  | finish (h : s.st = .waitingControl) (hr : s.remaining < 4) : StepShape s s.endSession
  | scan (h : s.st = .unsynced) (hr : 4 ≤ s.remaining) (hw : s.input.readWord s.pos ≠ syncWord) : StepShape s s.readWord
  | sync (h : s.st = .unsynced) (hr : 4 ≤ s.remaining) (hw : s.input.readWord s.pos = syncWord) :
      StepShape s { s.readWord with st := .waitingControl }
  | header (h : s.st = .waitingControl) (hr : 4 ≤ s.remaining) {t : State} (ht : HeaderShape s t) : StepShape s t
  | autoCrc (h : s.st = .waitingData) (hr : 4 ≤ s.remaining) (ha : s.actReg = some .fdri) (hp : s.fdPhase = .autoCrc) :
      StepShape s { s.readWord.foldCrc .crc (s.input.readWord s.pos) with st := .waitingControl }
  | burst (h : s.st = .waitingData) (hr : 4 ≤ s.remaining) (ha : s.actReg = some .fdri) (hb : 0 < s.budget)
      (hp : s.fdPhase = .payload) (c : ChipDescriptor) (hc : s.chip = some c) {t : State}
      (ht : BurstShape c (s.input.readWord s.pos) s t) : StepShape s t
  | count (h : s.st = .waitingData) (hr : 4 ≤ s.remaining) (r : Reg) (ha : s.actReg = some r) (hf : r ≠ .fdri)
      (hb : 0 < s.budget) {u : State}
      (hu : HookShape (s.input.readWord s.pos) (s.payloadWrite r (s.input.readWord s.pos)) r u) (hst : u.st ≠ .failed) :
      StepShape s u.finishPayload
  | hookFail (h : s.st = .waitingData) (hr : 4 ≤ s.remaining) (r : Reg) (ha : s.actReg = some r) (hf : r ≠ .fdri)
      (hb : 0 < s.budget) {u : State}
      (hu : HookShape (s.input.readWord s.pos) (s.payloadWrite r (s.input.readWord s.pos)) r u) (hst : u.st = .failed) :
      StepShape s u

/-- Everything a step can be. -/
theorem step_shape {s t : State} (h : step s = .next t) : (s.pins.rst = true ∧ t = s.rst) ∨ (s.pins.rst = false ∧ StepShape s t) := by
  obtain ⟨_, ⟨hp, rfl⟩ | ⟨hp, hi, hs, rfl⟩ | ⟨hp, hrun, _, hw⟩ | ⟨hp, hi, hr, rfl⟩⟩ := step_cases h
  · exact .inl ⟨hp, rfl⟩
  · exact .inr ⟨hp, .start hi hs⟩
  · refine .inr ⟨hp, ?_⟩
    rcases wordStep_cases hrun hw with ⟨hr, hs, rfl⟩ | ⟨hr, hs, rfl⟩ | ⟨hr, c, hc, he⟩
    · exact .desync hs hr
    · exact .finish hs hr
    · rcases context_cases hc with ⟨hs, rfl⟩ | ⟨hs, rfl⟩ | ⟨hs, ha, hph, rfl⟩ | ⟨r, hs, ha, hb, hn, rfl⟩
      · by_cases hsw : s.input.readWord s.pos = syncWord
        · simp only [decodeWord, if_pos hsw] at he
          injection he with he; subst he
          exact .sync hs hr hsw
        · simp only [decodeWord, if_neg hsw] at he
          injection he with he; subst he
          exact .scan hs hr hsw
      · obtain ⟨t', e, hshape⟩ := exec_classify_shape (s.input.readWord s.pos) s
        simp only [decodeWord] at he
        rw [e] at he; injection he with he; subst he
        exact .header hs hr hshape
      · simp only [decodeWord] at he
        injection he with he; subst he
        exact .autoCrc hs hr ha hph
      · simp only [decodeWord] at he
        by_cases hf : r = .fdri
        · subst hf
          have hph : s.fdPhase = .payload := by
            cases h : s.fdPhase with
            | payload => rfl
            | autoCrc => exact absurd ⟨rfl, h⟩ hn
          cases hchip : s.chip with
          | none =>
            have he : execDataFdri _ s = .next t := he
            rw [execDataFdri, hchip] at he
            cases he
          | some c => exact .burst hs hr ha hb hph c hchip (exec_fdri_shape hchip hs he)
        · obtain ⟨u, hu, ⟨h1, rfl⟩ | ⟨h1, rfl⟩⟩ := exec_data_shape hf (by simp [hs]) he
          · exact .hookFail hs hr r ha hf hb hu h1
          · exact .count hs hr r ha hf hb hu h1
  · exact .inr ⟨hp, .stay hi hr⟩

end Sys2Proof.Machine
end

