-- ==== Sys2Proof/Laws/Memory.lean ====
section
/-! SUPPORT. The input buffer: a read after a write, and the canonical form that every write keeps. -/

namespace Sys2Proof.Machine

/-! ## Cells -/

theorem cellsRising_mono {lo lo' : Nat} {cs : List Host.Cell} (h : lo' ≤ lo) (hc : cellsRising lo cs = true) :
    cellsRising lo' cs = true := by
  cases cs with
  | nil => rfl
  | cons p rest =>
    obtain ⟨a, b⟩ := p
    simp only [cellsRising, Bool.and_eq_true, decide_eq_true_eq] at hc ⊢
    exact ⟨⟨Nat.le_trans h hc.1.1, hc.1.2⟩, hc.2⟩

/-- No cell below the bound of rising cells is listed. -/
theorem cellRead_below {lo : Nat} {cs : List Host.Cell} (hc : cellsRising lo cs = true) {x : Nat} (hx : x < lo) :
    cellRead cs x = unlistedByte := by
  induction cs generalizing lo with
  | nil => rfl
  | cons p rest ih =>
    obtain ⟨a, b⟩ := p
    simp only [cellsRising, Bool.and_eq_true, decide_eq_true_eq] at hc
    have hne : a ≠ x := by omega
    simp only [cellRead, hne, if_false]
    exact ih hc.2 (by omega)

theorem cellsRising_cellWrite {lo : Nat} {cs : List Host.Cell} (hc : cellsRising lo cs = true) {x : Nat} (hx : lo ≤ x)
    (v : Byte) : cellsRising lo (cellWrite cs x v) = true := by
  induction cs generalizing lo with
  | nil =>
    by_cases hv : v = unlistedByte
    · simp [cellWrite, hv, cellsRising]
    · simp [cellWrite, hv, cellsRising, hx]
  | cons p rest ih =>
    obtain ⟨a, b⟩ := p
    simp only [cellsRising, Bool.and_eq_true, decide_eq_true_eq] at hc
    unfold cellWrite
    split
    · rename_i hlt
      simp only [cellsRising, Bool.and_eq_true, decide_eq_true_eq]
      exact ⟨hc.1, ih hc.2 (by omega)⟩
    · split
      · rename_i _ heq
        subst heq
        split
        · exact cellsRising_mono (by omega) hc.2
        · rename_i hv
          simp only [cellsRising, Bool.and_eq_true, decide_eq_true_eq, bne_iff_ne]
          exact ⟨⟨hx, hv⟩, hc.2⟩
      · split
        · simp only [cellsRising, Bool.and_eq_true, decide_eq_true_eq]; exact hc
        · rename_i hv
          simp only [cellsRising, Bool.and_eq_true, decide_eq_true_eq, bne_iff_ne]
          have hb := hc.1.2
          simp only [bne_iff_ne] at hb
          exact ⟨⟨hx, hv⟩, ⟨by omega, hb⟩, hc.2⟩

/-- A byte read where it was put, on rising cells. -/
theorem cellRead_cellWrite_same {lo : Nat} {cs : List Host.Cell} (hc : cellsRising lo cs = true) (x : Nat) (v : Byte) :
    cellRead (cellWrite cs x v) x = v := by
  induction cs generalizing lo with
  | nil =>
    by_cases hv : v = unlistedByte
    · simp [cellWrite, hv, cellRead]
    · simp [cellWrite, hv, cellRead]
  | cons p rest ih =>
    obtain ⟨a, b⟩ := p
    simp only [cellsRising, Bool.and_eq_true, decide_eq_true_eq] at hc
    unfold cellWrite
    split
    · rename_i hlt
      have hne : a ≠ x := by omega
      simp only [cellRead, hne, if_false]
      exact ih hc.2
    · split
      · rename_i _ heq
        subst heq
        split
        · rename_i hv
          rw [hv]
          exact cellRead_below hc.2 (by omega)
        · simp [cellRead]
      · split
        · rename_i hge hne hv
          have hne' : a ≠ x := hne
          simp only [cellRead, hne', if_false]
          rw [hv]
          exact cellRead_below hc.2 (by omega)
        · simp [cellRead]

/-- Every other address reads as before. -/
theorem cellRead_cellWrite_other (cs : List Host.Cell) (x y : Nat) (v : Byte) (h : y ≠ x) :
    cellRead (cellWrite cs x v) y = cellRead cs y := by
  induction cs with
  | nil =>
    unfold cellWrite
    split
    · rfl
    · simp [cellRead, Ne.symm h]
  | cons p rest ih =>
    obtain ⟨a, b⟩ := p
    unfold cellWrite
    split
    · simp only [cellRead, ih]
    · split
      · rename_i _ heq
        subst heq
        split <;> simp [cellRead, Ne.symm h]
      · split
        · rfl
        · simp [cellRead, Ne.symm h]

theorem mem_cellWrite {cs : List Host.Cell} {x : Nat} {v : Byte} {p : Host.Cell} (h : p ∈ cellWrite cs x v) :
    p = (x, v) ∨ p ∈ cs := by
  induction cs with
  | nil =>
    unfold cellWrite at h
    split at h
    · cases h
    · simpa using h
  | cons q rest ih =>
    obtain ⟨a, b⟩ := q
    unfold cellWrite at h
    split at h
    · rcases List.mem_cons.1 h with rfl | h
      · exact .inr (List.mem_cons_self ..)
      · rcases ih h with h | h
        · exact .inl h
        · exact .inr (List.mem_cons_of_mem _ h)
    · split at h
      · split at h
        · exact .inr (List.mem_cons_of_mem _ h)
        · rcases List.mem_cons.1 h with h | h
          · exact .inl h
          · exact .inr (List.mem_cons_of_mem _ h)
      · split at h
        · exact .inr h
        · rcases List.mem_cons.1 h with h | h
          · exact .inl h
          · exact .inr h

/-! ## Buffers -/

/-- The canonical form, as two facts. -/
theorem Memory.wf_iff (m : Memory) : m.wf = true ↔ cellsRising 0 m.cells = true ∧ ∀ p ∈ m.cells, p.1 < m.len := by
  simp [Memory.wf]

/-- Every host write keeps the canonical form. -/
theorem Memory.write_wf {m : Memory} (h : m.wf = true) (a : Nat) (v : Byte) : (m.write a v).wf = true := by
  rw [Memory.wf_iff] at h ⊢
  refine ⟨cellsRising_cellWrite h.1 (Nat.zero_le _) v, fun p hp => ?_⟩
  have hp' : p ∈ cellWrite m.cells a v := hp
  show p.1 < max m.len (a + 1)
  rcases mem_cellWrite hp' with rfl | hp'
  · show a < max m.len (a + 1)
    omega
  · have := h.2 p hp'
    omega

theorem Memory.writeBytes_wf {m : Memory} (h : m.wf = true) (a : Nat) (bs : List Byte) :
    (m.writeBytes a bs).wf = true := by
  induction bs generalizing m a with
  | nil => exact h
  | cons b rest ih => exact ih (Memory.write_wf h a b) (a + 1)

theorem Memory.empty_wf : Memory.empty.wf = true := rfl

/-- Every buffer a host supplies as bytes is in canonical form. -/
theorem Memory.ofBytes_wf (bs : List Byte) : (Memory.ofBytes bs).wf = true := Memory.writeBytes_wf Memory.empty_wf 0 bs

theorem Memory.read_write_same {m : Memory} (h : m.wf = true) (a : Nat) (v : Byte) : (m.write a v).read a = v :=
  cellRead_cellWrite_same ((Memory.wf_iff m).1 h).1 a v

theorem Memory.read_write_other (m : Memory) (a b : Nat) (v : Byte) (h : b ≠ a) : (m.write a v).read b = m.read b :=
  cellRead_cellWrite_other m.cells a b v h

theorem Memory.read_writeBytes_below (m : Memory) (a b : Nat) (bs : List Byte) (h : b < a) :
    (m.writeBytes a bs).read b = m.read b := by
  induction bs generalizing m a with
  | nil => rfl
  | cons v rest ih =>
    show ((m.write a v).writeBytes (a + 1) rest).read b = m.read b
    rw [ih (m.write a v) (a + 1) (by omega), Memory.read_write_other m a b v (by omega)]

/-- The bytes a host supplies read back in their order, from the address they were put at. -/
theorem Memory.read_writeBytes {m : Memory} (h : m.wf = true) (a : Nat) (bs : List Byte) (k : Nat) (hk : k < bs.length) :
    (m.writeBytes a bs).read (a + k) = bs[k] := by
  induction bs generalizing m a k with
  | nil => simp at hk
  | cons v rest ih =>
    show ((m.write a v).writeBytes (a + 1) rest).read (a + k) = (v :: rest)[k]
    cases k with
    | zero =>
      rw [Memory.read_writeBytes_below _ _ _ _ (by omega)]
      exact Memory.read_write_same h a v
    | succ k =>
      have hk' : k < rest.length := by simpa using hk
      have hadd : a + (k + 1) = (a + 1) + k := by omega
      rw [hadd, ih (Memory.write_wf h a v) (a + 1) k hk']
      simp

theorem Memory.write_len (m : Memory) (a : Nat) (v : Byte) : (m.write a v).len = max m.len (a + 1) := rfl

/-- The length after bytes are put from an address up: at least what they fill. -/
theorem Memory.writeBytes_len (m : Memory) (a : Nat) (bs : List Byte) (h : bs ≠ []) :
    (m.writeBytes a bs).len = max m.len (a + bs.length) := by
  induction bs generalizing m a with
  | nil => exact absurd rfl h
  | cons v rest ih =>
    show ((m.write a v).writeBytes (a + 1) rest).len = max m.len (a + (rest.length + 1))
    cases rest with
    | nil => rfl
    | cons w rest' =>
      rw [ih (m.write a v) (a + 1) (by simp), Memory.write_len]
      omega

end Sys2Proof.Machine
end

