-- ==== Sys2Proof/Laws/PerInstr.lean ====
section
/-! SUPPORT. One lemma per constructor of Instr. The family Codec says of a row that its word, read under the
row's own reading, is that row again with every operand as it was. -/

namespace Sys2Proof.Laws.Codec

/-- A well-formed instruction is read back from its word under its own reading. -/
def Statement (i : Instr) : Prop := i.wf = true → decodeWord i.context (encode i) = i

theorem sync : Statement (.sync) := fun _ => rfl

theorem scan (w : Word) : Statement (.scan w) := by
  intro h
  have hw : w ≠ syncWord := by simpa [Instr.wf] using h
  simp [encode, Instr.context, decodeWord, hw]

theorem noop (ignored : BitVec 27) : Statement (.noop ignored) := by
  intro _
  simp [encode, Instr.context, decodeWord, classify]

theorem t1wCrc (count : BitVec 11) : Statement (.t1wCrc count) := fun _ => classify_t1Header .write .crc count

theorem t1wFar (count : BitVec 11) : Statement (.t1wFar count) := fun _ => classify_t1Header .write .far count

theorem t1wFdri (count : BitVec 11) : Statement (.t1wFdri count) := fun _ => classify_t1Header .write .fdri count

theorem t1wFdro (count : BitVec 11) : Statement (.t1wFdro count) := fun _ => classify_t1Header .write .fdro count

theorem t1wCmd (count : BitVec 11) : Statement (.t1wCmd count) := fun _ => classify_t1Header .write .cmd count

theorem t1wCtl (count : BitVec 11) : Statement (.t1wCtl count) := fun _ => classify_t1Header .write .ctl count

theorem t1wMask (count : BitVec 11) : Statement (.t1wMask count) := fun _ => classify_t1Header .write .mask count

theorem t1wStat (count : BitVec 11) : Statement (.t1wStat count) := fun _ => classify_t1Header .write .stat count

theorem t1wLout (count : BitVec 11) : Statement (.t1wLout count) := fun _ => classify_t1Header .write .lout count

theorem t1wCor (count : BitVec 11) : Statement (.t1wCor count) := fun _ => classify_t1Header .write .cor count

theorem t1wMfwr (count : BitVec 11) : Statement (.t1wMfwr count) := fun _ => classify_t1Header .write .mfwr count

theorem t1wFlr (count : BitVec 11) : Statement (.t1wFlr count) := fun _ => classify_t1Header .write .flr count

theorem t1wKey (count : BitVec 11) : Statement (.t1wKey count) := fun _ => classify_t1Header .write .key count

theorem t1wCbc (count : BitVec 11) : Statement (.t1wCbc count) := fun _ => classify_t1Header .write .cbc count

theorem t1wIdcode (count : BitVec 11) : Statement (.t1wIdcode count) := fun _ => classify_t1Header .write .idcode count

theorem t1rCrc (count : BitVec 11) : Statement (.t1rCrc count) := fun _ => classify_t1Header .read .crc count

theorem t1rFar (count : BitVec 11) : Statement (.t1rFar count) := fun _ => classify_t1Header .read .far count

theorem t1rFdri (count : BitVec 11) : Statement (.t1rFdri count) := fun _ => classify_t1Header .read .fdri count

theorem t1rFdro (count : BitVec 11) : Statement (.t1rFdro count) := fun _ => classify_t1Header .read .fdro count

theorem t1rCmd (count : BitVec 11) : Statement (.t1rCmd count) := fun _ => classify_t1Header .read .cmd count

theorem t1rCtl (count : BitVec 11) : Statement (.t1rCtl count) := fun _ => classify_t1Header .read .ctl count

theorem t1rMask (count : BitVec 11) : Statement (.t1rMask count) := fun _ => classify_t1Header .read .mask count

theorem t1rStat (count : BitVec 11) : Statement (.t1rStat count) := fun _ => classify_t1Header .read .stat count

theorem t1rLout (count : BitVec 11) : Statement (.t1rLout count) := fun _ => classify_t1Header .read .lout count

theorem t1rCor (count : BitVec 11) : Statement (.t1rCor count) := fun _ => classify_t1Header .read .cor count

theorem t1rMfwr (count : BitVec 11) : Statement (.t1rMfwr count) := fun _ => classify_t1Header .read .mfwr count

theorem t1rFlr (count : BitVec 11) : Statement (.t1rFlr count) := fun _ => classify_t1Header .read .flr count

theorem t1rKey (count : BitVec 11) : Statement (.t1rKey count) := fun _ => classify_t1Header .read .key count

theorem t1rCbc (count : BitVec 11) : Statement (.t1rCbc count) := fun _ => classify_t1Header .read .cbc count

theorem t1rIdcode (count : BitVec 11) : Statement (.t1rIdcode count) := fun _ => classify_t1Header .read .idcode count

theorem t2 (op : BitVec 2) (count : BitVec 27) : Statement (.t2 op count) := by
  intro _
  simp [encode, Instr.context, decodeWord, classify]

theorem illegalT1Op11 (rest : BitVec 27) : Statement (.illegalT1Op11 rest) := by
  intro _
  simp [encode, Instr.context, decodeWord, classify]

theorem illegalT1rFields (addrHi : BitVec 9) (reg : BitVec 5) (rsv : BitVec 2) (count : BitVec 11) : Statement (.illegalT1rFields addrHi reg rsv count) := fun h =>
  (classify_t1Fields .read addrHi reg rsv count).trans (decodeT1_illegal .read addrHi reg rsv count h)

theorem illegalT1wFields (addrHi : BitVec 9) (reg : BitVec 5) (rsv : BitVec 2) (count : BitVec 11) : Statement (.illegalT1wFields addrHi reg rsv count) := fun h =>
  (classify_t1Fields .write addrHi reg rsv count).trans (decodeT1_illegal .write addrHi reg rsv count h)

theorem illegalType0 (rest : BitVec 29) : Statement (.illegalType0 rest) := by
  intro _
  simp [encode, Instr.context, decodeWord, classify]

theorem illegalType3 (rest : BitVec 29) : Statement (.illegalType3 rest) := by
  intro _
  simp [encode, Instr.context, decodeWord, classify]

theorem illegalType4 (rest : BitVec 29) : Statement (.illegalType4 rest) := by
  intro _
  simp [encode, Instr.context, decodeWord, classify]

theorem illegalType5 (rest : BitVec 29) : Statement (.illegalType5 rest) := by
  intro _
  simp [encode, Instr.context, decodeWord, classify]

theorem illegalType6 (rest : BitVec 29) : Statement (.illegalType6 rest) := by
  intro _
  simp [encode, Instr.context, decodeWord, classify]

theorem illegalType7 (rest : BitVec 29) : Statement (.illegalType7 rest) := by
  intro _
  simp [encode, Instr.context, decodeWord, classify]

theorem dataCrc (value : Word) : Statement (.dataCrc value) := fun _ => rfl

theorem dataFar (value : Word) : Statement (.dataFar value) := fun _ => rfl

theorem dataFdri (value : Word) : Statement (.dataFdri value) := fun _ => rfl

theorem autocrc (value : Word) : Statement (.autocrc value) := fun _ => rfl

theorem dataFdro (value : Word) : Statement (.dataFdro value) := fun _ => rfl

theorem dataCmd (value : Word) : Statement (.dataCmd value) := fun _ => rfl

theorem dataCtl (value : Word) : Statement (.dataCtl value) := fun _ => rfl

theorem dataMask (value : Word) : Statement (.dataMask value) := fun _ => rfl

theorem dataStat (value : Word) : Statement (.dataStat value) := fun _ => rfl

theorem dataLout (value : Word) : Statement (.dataLout value) := fun _ => rfl

theorem dataCor (value : Word) : Statement (.dataCor value) := fun _ => rfl

theorem dataMfwr (value : Word) : Statement (.dataMfwr value) := fun _ => rfl

theorem dataFlr (value : Word) : Statement (.dataFlr value) := fun _ => rfl

theorem dataKey (value : Word) : Statement (.dataKey value) := fun _ => rfl

theorem dataCbc (value : Word) : Statement (.dataCbc value) := fun _ => rfl

theorem dataIdcode (value : Word) : Statement (.dataIdcode value) := fun _ => rfl

theorem cmdNull : Statement (.cmdNull) := fun _ => rfl

theorem cmdWcfg : Statement (.cmdWcfg) := fun _ => rfl

theorem cmdMfwr : Statement (.cmdMfwr) := fun _ => rfl

theorem cmdLfrm : Statement (.cmdLfrm) := fun _ => rfl

theorem cmdRcfg : Statement (.cmdRcfg) := fun _ => rfl

theorem cmdStart : Statement (.cmdStart) := fun _ => rfl

theorem cmdRcap : Statement (.cmdRcap) := fun _ => rfl

theorem cmdRcrc : Statement (.cmdRcrc) := fun _ => rfl

theorem cmdAghigh : Statement (.cmdAghigh) := fun _ => rfl

theorem cmdSwitch : Statement (.cmdSwitch) := fun _ => rfl

theorem cmdGrestore : Statement (.cmdGrestore) := fun _ => rfl

theorem cmdShutdown : Statement (.cmdShutdown) := fun _ => rfl

theorem cmdGcapture : Statement (.cmdGcapture) := fun _ => rfl

theorem cmdDesynch : Statement (.cmdDesynch) := fun _ => rfl

theorem cmdOther (code : Word) : Statement (.cmdOther code) := by
  intro h
  exact decodeCommand_other code (by simpa [Instr.wf] using h)

end Sys2Proof.Laws.Codec
end

