-- ==== Sys2Proof/Machine/Listing.lean ====
section
/-! DEFINITION. The spec's listing notation: one line of a stream and the words it stands for
(spec/30_encoding.md R99, R100). It is how a stream is written down, and no step uses it. -/

namespace Sys2Proof.Machine

/-- One line of a listing. -/
inductive Line where
  | word (v : Word)
  | sync
  | noop
  | t1w (r : Reg) (n : BitVec 11)
  | t1r (r : Reg) (n : BitVec 11)
  | t2 (n : BitVec 27)
  /-- `WRITE REG, v1, ..., vn`. -/
  | write (r : Reg) (vs : List Word)
  /-- `WRITE2 REG, v1, ..., vn`. -/
  | write2 (r : Reg) (vs : List Word)
  /-- `CMD NAME`, by its code (R92). -/
  | cmd (code : Word)
  /-- `FRAMES c; f1 ... fk`: the frames' words, then the autoCRC word. -/
  | frames (autoCrc : Word) (fs : List Word)
  deriving DecidableEq, Repr

/-- The bounds R100 puts on the number of words. -/
def Line.wf : Line → Bool
  | .word _ => true
  | .sync => true
  | .noop => true
  | .t1w _ _ => true
  | .t1r _ _ => true
  | .t2 _ => true
  | .write _ vs => decide (1 ≤ vs.length ∧ vs.length ≤ 2047)
  | .write2 _ vs => decide (1 ≤ vs.length ∧ vs.length < 2 ^ 27)
  | .cmd _ => true
  | .frames _ fs => decide (1 ≤ fs.length ∧ fs.length ≤ 2047)

/-- A Type-1 WRITE header and its payload (R100). -/
def writeWords (r : Reg) (vs : List Word) : List Word := t1Header .write r (BitVec.ofNat 11 vs.length) :: vs

/-- The words of a line. The assembler writes a Type-2 header with op 10 (R99). -/
def Line.words : Line → List Word
  | .word v => [v]
  | .sync => [syncWord]
  | .noop => [t1Raw 0#2 0]
  | .t1w r n => [t1Header .write r n]
  | .t1r r n => [t1Header .read r n]
  | .t2 n => [t2Header 2#2 n]
  | .write r vs => writeWords r vs
  | .write2 r vs => t1Header .write r 0 :: t2Header 2#2 (BitVec.ofNat 27 vs.length) :: vs
  | .cmd code => writeWords .cmd [code]
  | .frames autoCrc fs => writeWords .fdri fs ++ [autoCrc]

/-- The stream of a listing. -/
def listingWords (ls : List Line) : List Word := ls.flatMap Line.words

end Sys2Proof.Machine
end

