-- ==== Sys2Proof/Tests/Slice0.lean ====
section
/-! SUPPORT. The model's own tests. Expected values are the spec's: the layouts of spec/30_encoding.md R81-R92, the
worked values of R119, R149 and R245, and the tables of spec/95_test_vectors.md section 3. -/

namespace Sys2Proof.Tests

/- Each `decide +kernel` waits for the kernel; one after another they need one thread, not one each. -/
set_option Elab.async false

open Sys2Proof.Machine

/-! ## Ill-formed terms, one for each check of WellFormed -/

theorem test_wf_scan_is_not_the_sync_word : (Instr.scan 0xAA995566#32).wf = false := by decide
theorem test_wf_illegal_read_needs_an_illegal_field : (Instr.illegalT1rFields 0 14 0 1).wf = false := by decide
theorem test_wf_illegal_write_needs_an_illegal_field : (Instr.illegalT1wFields 0 0 0 0).wf = false := by decide
theorem test_wf_other_command_is_above_13 : (Instr.cmdOther 13#32).wf = false ∧ (Instr.cmdOther 14#32).wf = true := by decide
theorem test_wf_illegal_fields_each : (Instr.illegalT1rFields 1 0 0 0).wf = true ∧
    (Instr.illegalT1wFields 0 15 0 0).wf = true ∧ (Instr.illegalT1wFields 0 0 1 0).wf = true := by decide

/-! ## Every constructor's word, written out from its layout -/

theorem test_decode_unsynced :
    decodeWord .unsynced 0b10101010_10011001_01010101_01100110#32 = .sync ∧
    decodeWord .unsynced 0x99AA6655#32 = .scan 0x99AA6655#32 := by
  decide

theorem test_decode_noop_and_t2 :
    decodeWord .control 0b001_00_111111111111111111111111111#32 = .noop 0x7FFFFFF ∧
    decodeWord .control 0b010_11_000000000000000000000000011#32 = .t2 3 3 := by
  decide

theorem test_decode_t1w_0 :
    decodeWord .control 0b001_10_000000000_00000_00_10000000001#32 = .t1wCrc 1025 ∧
    decodeWord .control 0b001_10_000000000_00001_00_10000000001#32 = .t1wFar 1025 ∧
    decodeWord .control 0b001_10_000000000_00010_00_10000000001#32 = .t1wFdri 1025 ∧
    decodeWord .control 0b001_10_000000000_00011_00_10000000001#32 = .t1wFdro 1025 ∧
    decodeWord .control 0b001_10_000000000_00100_00_10000000001#32 = .t1wCmd 1025 ∧
    decodeWord .control 0b001_10_000000000_00101_00_10000000001#32 = .t1wCtl 1025 ∧
    decodeWord .control 0b001_10_000000000_00110_00_10000000001#32 = .t1wMask 1025 ∧
    decodeWord .control 0b001_10_000000000_00111_00_10000000001#32 = .t1wStat 1025 := by
  decide

theorem test_decode_t1w_1 :
    decodeWord .control 0b001_10_000000000_01000_00_10000000001#32 = .t1wLout 1025 ∧
    decodeWord .control 0b001_10_000000000_01001_00_10000000001#32 = .t1wCor 1025 ∧
    decodeWord .control 0b001_10_000000000_01010_00_10000000001#32 = .t1wMfwr 1025 ∧
    decodeWord .control 0b001_10_000000000_01011_00_10000000001#32 = .t1wFlr 1025 ∧
    decodeWord .control 0b001_10_000000000_01100_00_10000000001#32 = .t1wKey 1025 ∧
    decodeWord .control 0b001_10_000000000_01101_00_10000000001#32 = .t1wCbc 1025 ∧
    decodeWord .control 0b001_10_000000000_01110_00_10000000001#32 = .t1wIdcode 1025 := by
  decide

theorem test_decode_t1r_0 :
    decodeWord .control 0b001_01_000000000_00000_00_10000000001#32 = .t1rCrc 1025 ∧
    decodeWord .control 0b001_01_000000000_00001_00_10000000001#32 = .t1rFar 1025 ∧
    decodeWord .control 0b001_01_000000000_00010_00_10000000001#32 = .t1rFdri 1025 ∧
    decodeWord .control 0b001_01_000000000_00011_00_10000000001#32 = .t1rFdro 1025 ∧
    decodeWord .control 0b001_01_000000000_00100_00_10000000001#32 = .t1rCmd 1025 ∧
    decodeWord .control 0b001_01_000000000_00101_00_10000000001#32 = .t1rCtl 1025 ∧
    decodeWord .control 0b001_01_000000000_00110_00_10000000001#32 = .t1rMask 1025 ∧
    decodeWord .control 0b001_01_000000000_00111_00_10000000001#32 = .t1rStat 1025 := by
  decide

theorem test_decode_t1r_1 :
    decodeWord .control 0b001_01_000000000_01000_00_10000000001#32 = .t1rLout 1025 ∧
    decodeWord .control 0b001_01_000000000_01001_00_10000000001#32 = .t1rCor 1025 ∧
    decodeWord .control 0b001_01_000000000_01010_00_10000000001#32 = .t1rMfwr 1025 ∧
    decodeWord .control 0b001_01_000000000_01011_00_10000000001#32 = .t1rFlr 1025 ∧
    decodeWord .control 0b001_01_000000000_01100_00_10000000001#32 = .t1rKey 1025 ∧
    decodeWord .control 0b001_01_000000000_01101_00_10000000001#32 = .t1rCbc 1025 ∧
    decodeWord .control 0b001_01_000000000_01110_00_10000000001#32 = .t1rIdcode 1025 := by
  decide

theorem test_decode_illegal :
    decodeWord .control 0b001_11_000000000000000000000000101#32 = .illegalT1Op11 5 ∧
    decodeWord .control 0b001_01_100000000_00000_00_00000000001#32 = .illegalT1rFields 256 0 0 1 ∧
    decodeWord .control 0b001_10_000000000_01111_00_00000000001#32 = .illegalT1wFields 0 15 0 1 ∧
    decodeWord .control 0b001_10_000000000_00000_01_00000000001#32 = .illegalT1wFields 0 0 1 1 ∧
    decodeWord .control 0b000_00000000000000000000000000110#32 = .illegalType0 6 ∧
    decodeWord .control 0b011_00000000000000000000000000110#32 = .illegalType3 6 ∧
    decodeWord .control 0b100_00000000000000000000000000110#32 = .illegalType4 6 ∧
    decodeWord .control 0b101_00000000000000000000000000110#32 = .illegalType5 6 ∧
    decodeWord .control 0b110_00000000000000000000000000110#32 = .illegalType6 6 ∧
    decodeWord .control 0b111_00000000000000000000000000110#32 = .illegalType7 6 := by
  decide

theorem test_decode_data :
    decodeWord (.data .crc) 0x8000000F#32 = .dataCrc 0x8000000F#32 ∧
    decodeWord (.data .far) 0x8000000F#32 = .dataFar 0x8000000F#32 ∧
    decodeWord (.data .fdri) 0x8000000F#32 = .dataFdri 0x8000000F#32 ∧
    decodeWord (.data .fdro) 0x8000000F#32 = .dataFdro 0x8000000F#32 ∧
    decodeWord (.data .cmd) 0x8000000F#32 = .dataCmd 0x8000000F#32 ∧
    decodeWord (.data .ctl) 0x8000000F#32 = .dataCtl 0x8000000F#32 ∧
    decodeWord (.data .mask) 0x8000000F#32 = .dataMask 0x8000000F#32 ∧
    decodeWord (.data .stat) 0x8000000F#32 = .dataStat 0x8000000F#32 ∧
    decodeWord (.data .lout) 0x8000000F#32 = .dataLout 0x8000000F#32 ∧
    decodeWord (.data .cor) 0x8000000F#32 = .dataCor 0x8000000F#32 ∧
    decodeWord (.data .mfwr) 0x8000000F#32 = .dataMfwr 0x8000000F#32 ∧
    decodeWord (.data .flr) 0x8000000F#32 = .dataFlr 0x8000000F#32 ∧
    decodeWord (.data .key) 0x8000000F#32 = .dataKey 0x8000000F#32 ∧
    decodeWord (.data .cbc) 0x8000000F#32 = .dataCbc 0x8000000F#32 ∧
    decodeWord (.data .idcode) 0x8000000F#32 = .dataIdcode 0x8000000F#32 ∧
    decodeWord .autoCrc 0x00003B61#32 = .autocrc 0x00003B61#32 := by
  decide

theorem test_decode_commands :
    decodeWord .command 0#32 = .cmdNull ∧
    decodeWord .command 1#32 = .cmdWcfg ∧
    decodeWord .command 2#32 = .cmdMfwr ∧
    decodeWord .command 3#32 = .cmdLfrm ∧
    decodeWord .command 4#32 = .cmdRcfg ∧
    decodeWord .command 5#32 = .cmdStart ∧
    decodeWord .command 6#32 = .cmdRcap ∧
    decodeWord .command 7#32 = .cmdRcrc ∧
    decodeWord .command 8#32 = .cmdAghigh ∧
    decodeWord .command 9#32 = .cmdSwitch ∧
    decodeWord .command 10#32 = .cmdGrestore ∧
    decodeWord .command 11#32 = .cmdShutdown ∧
    decodeWord .command 12#32 = .cmdGcapture ∧
    decodeWord .command 13#32 = .cmdDesynch ∧
    decodeWord .command 14#32 = .cmdOther 14#32 ∧
    decodeWord .command 0xFFFFFFFF#32 = .cmdOther 0xFFFFFFFF#32 := by
  decide

theorem test_decode_needs_four_bytes :
    decode .control [0x20#8, 0#8, 0#8] = .error .endOfInput ∧
    decode .control [0x20#8, 0#8, 0#8, 7#8, 9#8] = .ok (.noop 7, [9#8]) := by
  decide

theorem test_decode_table_word :
    decodeTableWord 32 0xAA995566 = some .sync ∧ decodeTableWord 32 13 = some .cmdDesynch ∧
    decodeTableWord 32 0x30004003 = some (.t1wFdri 3) ∧ decodeTableWord 32 0xE0000000 = some (.illegalType7 0) ∧
    decodeTableWord 64 0 = none := by
  decide

/-- The examples of R100. -/
theorem test_listing :
    (Line.t1w .idcode 1).words = [0x3001C001#32] ∧ (Line.t1w .fdri 0).words = [0x30004000#32] ∧
    (Line.t2 9).words = [0x50000009#32] ∧ (Line.cmd 7#32).words = [0x30008001#32, 7#32] ∧
    Line.noop.words = [0x20000000#32] ∧ (Line.t1r .stat 1).words = [0x2800E001#32] ∧
    (Line.write2 .fdri [5, 6, 7]).words = [0x30004000#32, 0x50000003#32, 5, 6, 7] ∧
    listingWords [.sync, .frames 9 [1, 2, 3]] = [0xAA995566#32, 0x30004003#32, 1, 2, 3, 9] := by
  decide

/-! ## Small states -/

/-- Chip T of spec/95_test_vectors.md section 2. -/
def chipT : ChipDescriptor :=
  { idcode := 0x01234093#32, frameWordLength := 3
    columnCount := { iob := 2, ioi := 2, clb := 2, bram := 2, bramInt := 2, gclk := 1 }
    frameCount := { iob := 2, ioi := 2, clb := 3, bram := 2, bramInt := 2, gclk := 2 } }

/-- Chip U of spec/95_test_vectors.md section 2. -/
def chipU : ChipDescriptor :=
  { idcode := 0x05678093#32, frameWordLength := 2
    columnCount := { iob := 2, ioi := 2, clb := 1, bram := 1, bramInt := 1, gclk := 1 }
    frameCount := { iob := 1, ioi := 1, clb := 2, bram := 1, bramInt := 1, gclk := 1 } }

/-- The buffer of a list of words. -/
def buffer (ws : List Word) : Memory := Memory.ofBytes (ws.flatMap bytesOfWord)

/-- Chips T and U, the buffer of `ws` after a sync word, and the cursor behind that word. -/
def inState (st : Status) (ws : List Word) : State :=
  { State.resetWith { Params.default with chips := [chipT, chipU] } (buffer (syncWord :: ws)) Pins.session with
    st := st, pos := 4 }

/-- The payload word `v` of a one-word write of `r`, at offset 8 as in spec/95_test_vectors.md section 3.1. -/
def writing (r : Reg) (v : Word) : State :=
  { inState .waitingData [t1Header .write r 1, v] with pos := 8, actReg := some r, budget := 1 }

/-- Chip T resolved, with its empty table. -/
def onT (s : State) : State := { s with chip := some chipT, store := some (allocate chipT) }

/-- A burst of `n` words on T with `j` of them read; `ws` are the words left. -/
def inBurst (n j : Nat) (ws : List Word) : State :=
  { onT (inState .waitingData ws) with
    actReg := some .fdri, budget := n - j, fdTotal := n, fdJ := j, fdPhase := if n = j then .autoCrc else .payload }

/-- The second frame of a burst of six words begins: the first is pending at FAR 0, and FAR has moved on. -/
def secondFrame : State :=
  { inBurst 6 3 [4, 5, 6, 0] with
    pending := some [1, 2, 3], pendFar := 0, asm := [1, 2, 3], regs := { RegFile.zero with far := 0x200#32 } }

/-- Make strict mode. -/
def strictly (s : State) : State := { s with params := { s.params with strict := true } }

/-- The answer is a next state with a property. -/
def holds (r : Result) (p : State → Bool) : Bool :=
  match r with
  | .next s => p s
  | .fault _ => false
  | .refused _ => false

/-- The record of an error: kind, code, state, offset. -/
def record (s : State) : Option (EventKind × Nat × Status × Nat) := s.err.map fun e => (e.kind, e.code, e.state, e.offset)

/-- The logged events: kind, code, offset. -/
def events (s : State) : List (EventKind × Nat × Nat) := s.diag.map fun e => (e.kind, e.code, e.offset)

/-! ## The CRC unit (R119) -/

theorem test_crc_fold :
    crcFold 0 0#5 1#32 = 0xC1E1#16 ∧ crcFold 0 0#5 0x80000000#32 = 0xC301#16 ∧ crcFold 0 1#5 0#32 = 0xC601#16 ∧
    crcFold 0 2#5 0xFFFFFFFF#32 = 0x0EA0#16 ∧ crcFold 0 8#5 0xDEADBEEF#32 = 0x01C5#16 ∧ crcFold 0 31#5 0#32 = 0x8201#16 ∧
    crcFold 0xFFFF#16 0#5 0#32 = 0x0120#16 := by
  decide +kernel

theorem test_crc_residual :
    crcFold 0x1234#16 0#5 0x1234#32 = 0 ∧ crcFold 0xBEEF#16 0#5 0x1BEEF#32 = 0xC281#16 ∧
    crcFold 0x1234#16 0#5 0x15237#32 = 0 ∧ crcUpdate 0 8#5 0xDEADBEEF#32 = 0 := by
  decide +kernel

/-! ## The FAR codec (R149) -/

theorem test_far_codec :
    farEncode { block := 1, major := 2, minor := 3, bitOffset := 4 } = 0x02040604#32 ∧
    farDecode 0xFFFFFFFF#32 = { block := 3, major := 255, minor := 255, bitOffset := 511 } := by
  decide +kernel

theorem test_far_regions :
    [0#8, 1#8, 2#8, 3#8, 4#8, 5#8, 6#8, 7#8].map (regionOf chipT 0#2) =
      [some .gclk, some .iob, some .ioi, some .clb, some .clb, some .ioi, some .iob, some .clb] ∧
    [columnOf .clb 3, columnOf .clb 4, columnOf .ioi 5, columnOf .iob 6, columnOf .clb 7] = [0, 1, 1, 1, 4] ∧
    regionOf chipT 3#2 0#8 = none ∧ slotOf chipT 0x00080400#32 = some { region := .clb, column := 1, frame := 2 } := by
  decide +kernel

theorem test_far_inc_minor :
    [0x00000000#32, 0x00000200#32, 0x000C0200#32, 0x02020200#32, 0x04020200#32].map (farInc .minor chipT) =
      [some 0x00000200#32, some 0x00020000#32, some 0x02000000#32, some 0x04000000#32, some 0x04040000#32] := by
  decide +kernel

theorem test_far_inc_minor_corners :
    [0x05FE0200#32, 0x00000A00#32, 0x0001FE00#32, 0x00060407#32, 0x06000000#32].map (farInc .minor chipT) =
      [some 0x04000000#32, some 0x00000C00#32, some 0x00000000#32, some 0x00080007#32, none] := by
  decide +kernel

theorem test_far_inc_bit :
    [0x00000000#32, 0x00000002#32, 0x000001FF#32, 0x000C0202#32, 0x06000000#32, 0x06000002#32].map (farInc .bit chipT) =
      [some 0x00000001#32, some 0x00000200#32, some 0x00000000#32, some 0x02000000#32, some 0x06000001#32, none] := by
  decide +kernel

/-! ## The frame store (R245) and the names (R242, R148) -/

theorem test_slot_layout :
    totalSlots chipT = 24 ∧ totalSlots chipU = 9 ∧ Region.all.map (regionBase chipT) = [0, 4, 8, 14, 18, 22] ∧
    flatIndex chipT { region := .clb, column := 1, frame := 2 } = 13 ∧
    flatIndex chipT { region := .gclk, column := 0, frame := 1 } = 23 := by
  decide +kernel

theorem test_lookups :
    lookupFrame (onT (inState .unsynced [])) { region := .clb, column := 2, frame := 0 } = .refused .outOfGeometry ∧
    lookupFrame (onT (inState .unsynced [])) { region := .clb, column := 0, frame := 3 } = .refused .outOfGeometry ∧
    lookupFrame (onT (inState .unsynced [])) { region := .iob, column := 0, frame := 0 } = .notCaptured ∧
    lookupFrame (inState .unsynced []) { region := .iob, column := 0, frame := 0 } = .refused .noStore ∧
    queryFrameWordLength chipT .clb = 3 := by
  decide +kernel

theorem test_lookup_is_the_whole_frame :
    lookupFrame
      { onT (inState .unsynced []) with
        store := some (slotWrite chipT (allocate chipT) { region := .gclk, column := 0, frame := 0 }
          [0xA0000001#32, 0xA0000002#32, 0xA0000003#32]) }
      { region := .gclk, column := 0, frame := 0 } =
      .frame [0xA0#8, 0#8, 0#8, 1#8, 0xA0#8, 0#8, 0#8, 2#8, 0xA0#8, 0#8, 0#8, 3#8] := by
  decide +kernel

theorem test_names :
    frameNameChars { region := .bramInt, column := 10, frame := 255 } =
      ['f', 'r', 'a', 'm', 'e', '_', 'B', 'R', 'A', 'M', '_', 'I', 'N', 'T', '_', '0', 'a', '_', 'f', 'f'] ∧
    farNameChars 0x04246856#32 = ['2', '_', '1', '8', '_', '5', '2', '_', '8', '6'] ∧
    farNameChars 0#32 = ['0', '_', '0', '_', '0', '_', '0'] := by
  decide +kernel

/-! ## One payload word of each register (spec/95_test_vectors.md section 3.1) -/

theorem test_data_far :
    holds (step (writing .far 0x00020200#32))
      (fun t => t.crc == 0xC304#16 && t.readReg .far == 0x00020200#32 && events t == [(.commandIgnored, 32, 8)]) = true ∧
    holds (step (writing .far 0x00020200#32))
      (fun t => t.st == .waitingControl && t.pos == 12) = true := by
  decide +kernel

theorem test_data_fdro :
    holds (step (writing .fdro 0x00000000#32))
      (fun t => t.crc == 0x0A00#16 && t.readReg .fdro == 0x00000000#32 && events t == []) = true ∧
    holds (step (writing .fdro 0x00000000#32))
      (fun t => t.st == .waitingControl && t.pos == 12) = true := by
  decide +kernel

theorem test_data_cmd :
    holds (step (writing .cmd 0x00000010#32))
      (fun t => t.crc == 0x0600#16 && t.readReg .cmd == 0x00000010#32 && events t == [(.commandIgnored, 32, 8)]) = true ∧
    holds (step (writing .cmd 0x00000010#32))
      (fun t => t.st == .waitingControl && t.pos == 12) = true := by
  decide +kernel

theorem test_data_ctl :
    holds (step (writing .ctl 0x00000005#32))
      (fun t => t.crc == 0x1860#16 && t.readReg .ctl == 0x00000005#32 && events t == []) = true ∧
    holds (step (writing .ctl 0x00000005#32))
      (fun t => t.st == .waitingControl && t.pos == 12) = true := by
  decide +kernel

theorem test_data_mask :
    holds (step (writing .mask 0x80000000#32))
      (fun t => t.crc == 0xD701#16 && t.readReg .mask == 0x80000000#32 && events t == []) = true ∧
    holds (step (writing .mask 0x80000000#32))
      (fun t => t.st == .waitingControl && t.pos == 12) = true := by
  decide +kernel

theorem test_data_stat :
    holds (step (writing .stat 0x00000001#32))
      (fun t => t.crc == 0x13E0#16 && t.readReg .stat == 0x00000001#32 && events t == []) = true ∧
    holds (step (writing .stat 0x00000001#32))
      (fun t => t.st == .waitingControl && t.pos == 12) = true := by
  decide +kernel

theorem test_data_lout :
    holds (step (writing .lout 0xDEADBEEF#32))
      (fun t => t.crc == 0x0000#16 && t.readReg .lout == 0xDEADBEEF#32 && events t == []) = true ∧
    holds (step (writing .lout 0xDEADBEEF#32))
      (fun t => t.st == .waitingControl && t.pos == 12) = true := by
  decide +kernel

theorem test_data_cor :
    holds (step (writing .cor 0xFFFFFFFF#32))
      (fun t => t.crc == 0xF4A1#16 && t.readReg .cor == 0xFFFFFFFF#32 && events t == []) = true ∧
    holds (step (writing .cor 0xFFFFFFFF#32))
      (fun t => t.st == .waitingControl && t.pos == 12) = true := by
  decide +kernel

theorem test_data_mfwr :
    holds (step (writing .mfwr 0x00000000#32))
      (fun t => t.crc == 0x3C00#16 && t.readReg .mfwr == 0x00000000#32 && events t == []) = true ∧
    holds (step (writing .mfwr 0x00000000#32))
      (fun t => t.st == .waitingControl && t.pos == 12) = true := by
  decide +kernel

theorem test_data_flr :
    holds (step (writing .flr 0x00000002#32))
      (fun t => t.crc == 0x39C0#16 && t.readReg .flr == 0x00000002#32 && events t == []) = true ∧
    holds (step (writing .flr 0x00000002#32))
      (fun t => t.st == .waitingControl && t.pos == 12) = true := by
  decide +kernel

theorem test_data_key :
    holds (step (writing .key 0x12345678#32))
      (fun t => t.crc == 0xCFEA#16 && t.readReg .key == 0x12345678#32 && events t == []) = true ∧
    holds (step (writing .key 0x12345678#32))
      (fun t => t.st == .waitingControl && t.pos == 12) = true := by
  decide +kernel

theorem test_data_cbc :
    holds (step (writing .cbc 0x00000001#32))
      (fun t => t.crc == 0x2FE0#16 && t.readReg .cbc == 0x00000001#32 && events t == []) = true ∧
    holds (step (writing .cbc 0x00000001#32))
      (fun t => t.st == .waitingControl && t.pos == 12) = true := by
  decide +kernel

theorem test_data_crc :
    holds (step (writing .crc 1#32))
      (fun t => t.crc == 0xC1E1#16 && events t == [(.crcResidualNonzero, 7, 8)] && t.st == .waitingControl) = true ∧
    holds (step (writing .crc 0#32))
      (fun t => t.crc == 0#16 && events t == [] && t.st == .waitingControl) = true := by
  decide +kernel

theorem test_data_crc_strict :
    holds (step (strictly (writing .crc 1#32)))
      (fun t => t.crc == 0xC1E1#16 && record t == some (.crcResidualNonzero, 7, .waitingData, 8) && t.budget == 1 &&
          t.pos == 12) = true := by
  decide +kernel

theorem test_data_idcode :
    holds (step (writing .idcode 0x01234093#32))
      (fun t => t.crc == 0x9F06#16 && t.readReg .idcode == 0x01234093#32 && events t == [(.geometryMismatch, 6, 8)]) = true ∧
    holds (step (writing .idcode 0x01234093#32))
      (fun t => t.chip == some chipT && t.store == some (List.replicate 24 none)) = true := by
  decide +kernel

theorem test_data_idcode_errors :
    holds (step (writing .idcode 0x12345678#32))
      (fun t => t.crc == 0x03EB#16 && record t == some (.unrecognizedChip, 5, .waitingData, 8) && t.store == none) = true ∧
    holds (step (onT (writing .idcode 0x05678093#32)))
      (fun t => record t == some (.chipChanged, 20, .waitingData, 8) && t.chip == some chipT) = true := by
  decide +kernel

theorem test_data_fdri_assembles :
    holds (step (inBurst 3 0 [1, 2, 3, 0]))
      (fun t => t.asm == [1] && t.pending == none && t.fdJ == 1 && t.budget == 2 && t.readReg .far == 0) = true ∧
    holds (step { inBurst 3 2 [3, 0] with asm := [1, 2] })
      (fun t => t.pending == some [1, 2, 3] && t.asm == [1, 2, 3] && t.fdJ == 3 && t.fdPhase == .autoCrc &&
          t.readReg .far == 0x200#32 && t.st == .waitingData) = true := by
  decide +kernel

theorem test_data_fdri_captures_the_previous_frame :
    holds (step secondFrame)
      (fun t => lookupFrame t { region := .gclk, column := 0, frame := 0 } ==
          .frame [0#8, 0#8, 0#8, 1#8, 0#8, 0#8, 0#8, 2#8, 0#8, 0#8, 0#8, 3#8] && t.asm == [4] && t.pendFar == 0x200#32 &&
              events t == []) = true := by
  decide +kernel

theorem test_autocrc :
    holds (step { inBurst 3 3 [0x00003B61#32] with crc := 0x3B61#16 })
      (fun t => t.crc == 0#16 && t.st == .waitingControl && events t == []) = true ∧
    holds (step { inBurst 3 3 [0xDEAD0000#32] with crc := 0x3B61#16 })
      (fun t => t.crc == 0x6BCC#16 && t.st == .waitingControl && events t == []) = true := by
  decide +kernel

/-! ## Every command, by a CMD word at offset 8 (spec/95_test_vectors.md section 3.5) -/

theorem test_cmd_null :
    holds (step (writing .cmd 0#32))
      (fun t => t.crc == 0xD801#16 && events t == [(.commandIgnored, 32, 8)]) = true := by
  decide +kernel

theorem test_cmd_wcfg :
    holds (step (writing .cmd 1#32))
      (fun t => t.crc == 0x19E0#16 && events t == [(.commandIgnored, 32, 8)]) = true := by
  decide +kernel

theorem test_cmd_lfrm :
    holds (step (writing .cmd 3#32))
      (fun t => t.crc == 0xDA21#16 && events t == [(.commandIgnored, 32, 8)]) = true := by
  decide +kernel

theorem test_cmd_rcfg :
    holds (step (writing .cmd 4#32))
      (fun t => t.crc == 0x1F80#16 && events t == [(.commandIgnored, 32, 8)]) = true := by
  decide +kernel

theorem test_cmd_start :
    holds (step (writing .cmd 5#32))
      (fun t => t.crc == 0xDE61#16 && events t == [(.commandIgnored, 32, 8)]) = true := by
  decide +kernel

theorem test_cmd_rcap :
    holds (step (writing .cmd 6#32))
      (fun t => t.crc == 0xDC41#16 && events t == [(.commandIgnored, 32, 8)]) = true := by
  decide +kernel

theorem test_cmd_aghigh :
    holds (step (writing .cmd 8#32))
      (fun t => t.crc == 0x1700#16 && events t == [(.commandIgnored, 32, 8)]) = true := by
  decide +kernel

theorem test_cmd_switch :
    holds (step (writing .cmd 9#32))
      (fun t => t.crc == 0xD6E1#16 && events t == [(.commandIgnored, 32, 8)]) = true := by
  decide +kernel

theorem test_cmd_grestore :
    holds (step (writing .cmd 10#32))
      (fun t => t.crc == 0xD4C1#16 && events t == [(.commandIgnored, 32, 8)]) = true := by
  decide +kernel

theorem test_cmd_shutdown :
    holds (step (writing .cmd 11#32))
      (fun t => t.crc == 0x1520#16 && events t == [(.commandIgnored, 32, 8)]) = true := by
  decide +kernel

theorem test_cmd_gcapture :
    holds (step (writing .cmd 12#32))
      (fun t => t.crc == 0xD081#16 && events t == [(.commandIgnored, 32, 8)]) = true := by
  decide +kernel

theorem test_cmd_desynch :
    holds (step (writing .cmd 13#32))
      (fun t => t.crc == 0x1160#16 && events t == [(.commandIgnored, 32, 8)]) = true := by
  decide +kernel

theorem test_cmd_other :
    holds (step (writing .cmd 0xFFFFFFFF#32))
      (fun t => t.crc == 0x1AA0#16 && events t == [(.commandIgnored, 32, 8)]) = true := by
  decide +kernel

theorem test_cmd_rcrc : holds (step (writing .cmd 7#32))
      (fun t => t.crc == 0#16 && events t == []) = true := by
  decide +kernel

theorem test_cmd_mfwr_needs_a_chip_and_a_frame :
    holds (step (writing .cmd 2#32))
      (fun t => t.crc == 0x1BC0#16 && record t == some (.noChipResolved, 18, .waitingData, 8) && t.pos == 12) = true ∧
    holds (step (onT (writing .cmd 2#32)))
      (fun t => record t == some (.noPendingFrame, 19, .waitingData, 8)) = true := by
  decide +kernel

theorem test_cmd_mfwr_by_a_far_word :
    holds (step { onT (writing .far 0x00020200#32) with regs := { RegFile.zero with cmd := 2#32 }, pending := some [1, 2, 3] })
      (fun t => lookupFrame t { region := .iob, column := 0, frame := 1 } ==
          .frame [0#8, 0#8, 0#8, 1#8, 0#8, 0#8, 0#8, 2#8, 0#8, 0#8, 0#8, 3#8] && t.pending == some [1, 2, 3]) = true := by
  decide +kernel

/-! ## Headers (spec/95_test_vectors.md sections 3.3 and 3.4) -/

theorem test_sync : holds (step { inState .unsynced [] with pos := 0 })
      (fun t => t.st == .waitingControl && t.pos == 4) = true := by
  decide +kernel

theorem test_scan : holds (step (inState .unsynced [0xFFFFFFFF#32]))
      (fun t => t.st == .unsynced && t.pos == 8) = true := by
  decide +kernel

theorem test_noop : holds (step (inState .waitingControl [0x27FFFFFF#32]))
      (fun t => t.st == .waitingControl && t.pos == 8 && t.actReg == none) = true := by
  decide +kernel

theorem test_t1w : holds (step (inState .waitingControl [0x3001C001#32, 0]))
      (fun t => t.st == .waitingData && t.actReg == some .idcode && t.budget == 1) = true := by
  decide +kernel

theorem test_t1r : holds (step (inState .waitingControl [0x2800E001#32, 0]))
      (fun t => t.st == .waitingData && t.actReg == some .stat && t.actOp == .read && t.budget == 1) = true := by
  decide +kernel

theorem test_t2 :
    holds (step (inState .waitingControl [0x50000009#32]))
      (fun t => record t == some (.malformedPacket, 2, .waitingControl, 4)) = true ∧
    holds (step { inState .waitingControl [0x58000001#32, 0] with actReg := some .stat })
      (fun t => t.st == .waitingData && t.actReg == some .stat && t.budget == 1) = true := by
  decide +kernel

theorem test_illegal :
    [0x38000000#32, 0x30040001#32, 0x28000801#32, 0x3001E001#32, 0#32, 0x60000000#32, 0x80000000#32, 0xAA995566#32, 0xC0000000#32,
        0xFFFFFFFF#32].all
      (fun w => decide (holds (step (inState .waitingControl [w]))
      (fun t => record t == some (.malformedPacket, 2, .waitingControl, 4) && t.pos == 8) = true)) = true := by
  decide +kernel

theorem test_end_of_input :
    holds (step (inState .waitingControl []))
      (fun t => t.st == .done && t.pos == 4) = true ∧
    holds (step (inState .unsynced []))
      (fun t => record t == some (.desyncError, 1, .unsynced, 4) && t.pos == 4) = true := by
  decide +kernel

theorem test_enter_data_errors :
    holds (step (inState .waitingControl [0x30004003#32, 1]))
      (fun t => record t == some (.truncatedInput, 4, .waitingControl, 4)) = true ∧
    holds (step (inState .waitingControl [0x30004003#32, 1, 2, 3, 4]))
      (fun t => record t == some (.noChipResolved, 18, .waitingControl, 4)) = true ∧
    holds (step (onT (inState .waitingControl [0x30004004#32, 1, 2, 3, 4, 5])))
      (fun t => record t == some (.inconsistentFrameLength, 3, .waitingControl, 4)) = true := by
  decide +kernel

/-! ## Reset and the host's placing of one word (log entry 4) -/

theorem test_reset : step State.reset = .next { State.reset with st := .unsynced } := rfl

theorem test_fetch_word_runs :
    holds (step (State.reset.withFetchWord 32 0x3001C000))
      (fun t => t.st == .waitingControl && t.actReg == some .idcode) = true ∧
    holds (step (State.reset.withFetchWord 32 5))
      (fun t => t.readReg .cmd == 5#32 && events t == [(.commandIgnored, 32, 0)]) = true ∧
    holds (step (State.reset.withFetchWord 32 0xAA995566))
      (fun t => t.st == .waitingControl) = true := by
  decide +kernel

/-! ## Witnesses: concrete states that meet the hypotheses of each statement together -/

theorem holds_next {r : Result} {p : State → Bool} (h : holds r p = true) : ∃ t, r = .next t ∧ p t = true := by
  cases r with
  | next s => exact ⟨s, rfl, h⟩
  | fault f => cases h
  | refused x => cases h

/-- A coherent state with no chip is one whose decidable parts hold. -/
theorem inv_without_chip {s : State} (hi : s.input.wf = true) (hk : chipTableOk s.params.chips = true)
    (hp : s.pos ≤ s.input.len) (ha : s.pos % 4 = 0) (hc : s.chip = none) (hs : s.store = none)
    (hd : s.pending = none) (hb : s.budget < 2 ^ 27)
    (hj : s.fdJ ≤ s.fdTotal) (he : s.err.isSome = true ↔ s.st = .failed)
    (hw : s.st = .waitingData → ∃ r, s.actReg = some r ∧ r ≠ .fdri ∧ 0 < s.budget ∧ 4 * s.budget ≤ s.remaining) :
    s.Inv where
  input_wf := hi
  chips_ok := hk
  pos_le := hp
  pos_aligned := ha
  chip_known c h := by rw [hc] at h; cases h
  store := by simp [StoreInv, hc, hs]
  pending f h := by rw [hd] at h; cases h
  budget_lt := hb
  burst_le := hj
  err_iff := he
  payload h := by
    obtain ⟨r, hr, hf, h1, h2⟩ := hw h
    simp [PayloadInv, hr, hf, h1, h2]

theorem test_inv_idle : { inState .idle [7] with pos := 0 }.Inv := by
  apply inv_without_chip <;> decide +kernel

theorem test_inv_unsynced : { inState .unsynced [7] with pos := 0 }.Inv := by
  apply inv_without_chip <;> decide +kernel

theorem test_inv_control : (inState .waitingControl [0x3001C001#32, 0x01234093#32]).Inv := by
  apply inv_without_chip <;> decide +kernel

theorem test_inv_writing_idcode : (writing .idcode 0x01234093#32).Inv :=
  inv_without_chip (by decide +kernel) (by decide +kernel) (by decide +kernel) rfl rfl rfl rfl (by decide) (by decide) (by decide)
    (fun _ => ⟨.idcode, rfl, by decide, by decide, by decide +kernel⟩)

/-- The payload word `v` of `r` on T, with a frame pending, CMD and FAR as given. -/
def captureReady (r : Reg) (v cmd far : Word) : State :=
  { onT (writing r v) with pending := some [1, 2, 3], regs := { RegFile.zero with cmd := cmd, far := far } }

theorem inv_capture_ready (r : Reg) (v cmd far : Word) (hf : r ≠ .fdri) (hi : (captureReady r v cmd far).input.wf = true)
    (hp : (captureReady r v cmd far).pos ≤ (captureReady r v cmd far).input.len) (hr : 4 ≤ (captureReady r v cmd far).remaining) :
    (captureReady r v cmd far).Inv where
  input_wf := hi
  chips_ok := show chipTableOk [chipT, chipU] = true by decide +kernel
  pos_le := hp
  pos_aligned := show 8 % 4 = 0 from rfl
  chip_known c h := by injection h with h; subst h; exact List.mem_cons_self
  store := ⟨rfl, fun f h => by simp [allocate] at h⟩
  pending f h := by injection h with h; subst h; exact ⟨chipT, rfl, rfl⟩
  budget_lt := show 1 < 2 ^ 27 by decide
  burst_le := show 0 ≤ 0 by decide
  err_iff := by show false = true ↔ Status.waitingData = .failed; decide
  payload _ := by
    show (if r = .fdri then _ else 0 < 1 ∧ 4 * 1 ≤ (captureReady r v cmd far).remaining)
    rw [if_neg hf]
    exact ⟨by decide, hr⟩

theorem test_inv_second_frame : secondFrame.Inv where
  input_wf := by decide +kernel
  chips_ok := by decide +kernel
  pos_le := by decide +kernel
  pos_aligned := rfl
  chip_known c h := by injection h with h; subst h; exact List.mem_cons_self
  store := ⟨rfl, fun f h => by simp [allocate] at h⟩
  pending f h := by injection h with h; subst h; exact ⟨chipT, rfl, rfl⟩
  budget_lt := by decide
  burst_le := by decide
  err_iff := by decide
  payload _ := { whole := rfl, pending := fun _ => rfl, asm := fun h => absurd rfl h, phase :=
      show 0 < secondFrame.budget ∧ secondFrame.budget + secondFrame.fdJ = secondFrame.fdTotal ∧
        4 * (secondFrame.budget + 1) ≤ secondFrame.remaining by decide +kernel }

theorem test_inv_auto_crc : (inBurst 0 0 [7]).Inv where
  input_wf := by decide +kernel
  chips_ok := by decide +kernel
  pos_le := by decide +kernel
  pos_aligned := rfl
  chip_known c h := by injection h with h; subst h; exact List.mem_cons_self
  store := ⟨rfl, fun f h => by simp [allocate] at h⟩
  pending f h := by cases h
  budget_lt := by decide
  burst_le := by decide
  err_iff := by decide
  payload _ := { whole := rfl, pending := by decide, asm := fun h => absurd rfl h, phase :=
      show (inBurst 0 0 [7]).budget = 0 ∧ (inBurst 0 0 [7]).fdJ = (inBurst 0 0 [7]).fdTotal ∧
        4 ≤ (inBurst 0 0 [7]).remaining by decide +kernel }

theorem test_meets_DecodeOfEncodeIsTheInstruction : (Instr.t1wIdcode 2047).wf = true ∧ (Instr.scan 0#32).wf = true := by decide

theorem test_meets_StepRunsTheDecodedInstruction :
    chipTableOk (inState .waitingControl [0x3001C001#32, 7]).params.chips = true ∧
    (inState .waitingControl [0x3001C001#32, 7]).Stepping ∧ 4 ≤ (inState .waitingControl [0x3001C001#32, 7]).remaining ∧
    (inState .waitingControl [0x3001C001#32, 7]).context = some .control ∧
    decode .control ((inState .waitingControl [0x3001C001#32, 7]).input.wordBytes 4) = .ok (.t1wIdcode 1, []) :=
  ⟨by decide +kernel, by decide, by decide +kernel, rfl, rfl⟩

theorem test_meets_ScanEndsAtTheSyncWord :
    [0xAA995566#32, 0xAA995567#32].all (fun w =>
      chipTableOk (inState .unsynced [w]).params.chips && decide (inState .unsynced [w]).Stepping &&
        decide (4 ≤ (inState .unsynced [w]).remaining) && (inState .unsynced [w]).input.readWord 4 == w) = true := by
  decide +kernel

theorem test_meets_NoopChangesOnlyTheCursor :
    chipTableOk (inState .waitingControl [0x27FFFFFF#32]).params.chips = true ∧
    (inState .waitingControl [0x27FFFFFF#32]).Stepping ∧ 4 ≤ (inState .waitingControl [0x27FFFFFF#32]).remaining ∧
    ((inState .waitingControl [0x27FFFFFF#32]).input.readWord 4).extractLsb' 29 3 = 1#3 ∧
    ((inState .waitingControl [0x27FFFFFF#32]).input.readWord 4).extractLsb' 27 2 = 0#2 := by
  decide +kernel

/-- Each clause at its edge: just enough words, one word short, no chip, a length that is no multiple of 3. -/
theorem test_meets_Type1HeaderSelectsAndEnters :
    holds (exec (.t1wFdri 0) (inState .waitingControl [0])) (fun t => t.st == .waitingControl &&
        t.actReg == some .fdri) = true ∧
    holds (exec (.t1rCor 1) (inState .waitingControl [0, 0])) (fun t => t.st == .waitingData && t.budget == 1) = true ∧
    holds (exec (.t1wFdri 3) (onT (inState .waitingControl [0, 1, 2, 3, 4])))
      (fun t => t.st == .waitingData && t.fdTotal == 3) = true ∧
    holds (exec (.t1wFdri 3) (onT (inState .waitingControl [0, 1, 2, 3])))
      (fun t => record t == some (.truncatedInput, 4, .waitingControl, 4)) = true ∧
    holds (exec (.t1rCor 1) (inState .waitingControl [0]))
      (fun t => record t == some (.truncatedInput, 4, .waitingControl, 4)) = true ∧
    holds (exec (.t1wFdri 3) (inState .waitingControl [0, 1, 2, 3, 4]))
      (fun t => record t == some (.noChipResolved, 18, .waitingControl, 4)) = true ∧
    holds (exec (.t1wFdri 4) (onT (inState .waitingControl [0, 1, 2, 3, 4, 5])))
      (fun t => record t == some (.inconsistentFrameLength, 3, .waitingControl, 4)) = true := by
  decide +kernel

theorem test_meets_Type2HeaderFeedsTheActiveRegister :
    holds (exec (.t2 0 1) (inState .waitingControl [0, 0]))
      (fun t => record t == some (.malformedPacket, 2, .waitingControl, 4)) = true ∧
    holds (exec (.t2 2 0) { inState .waitingControl [0] with actReg := some .fdri }) (fun t => t.st == .waitingControl) = true ∧
    holds (exec (.t2 2 1) { inState .waitingControl [0, 0] with actReg := some .ctl }) (fun t => t.st == .waitingData &&
        t.budget == 1) = true ∧
    holds (exec (.t2 2 3) { onT (inState .waitingControl [0, 1, 2, 3, 4]) with actReg := some .fdri })
      (fun t => t.st == .waitingData && t.fdTotal == 3) = true ∧
    holds (exec (.t2 2 3) { onT (inState .waitingControl [0, 1, 2, 3]) with actReg := some .fdri })
      (fun t => record t == some (.truncatedInput, 4, .waitingControl, 4)) = true ∧
    holds (exec (.t2 2 3) { inState .waitingControl [0, 1, 2, 3, 4] with actReg := some .fdri })
      (fun t => record t == some (.noChipResolved, 18, .waitingControl, 4)) = true ∧
    holds (exec (.t2 2 2) { onT (inState .waitingControl [0, 1, 2, 3]) with actReg := some .fdri })
      (fun t => record t == some (.inconsistentFrameLength, 3, .waitingControl, 4)) = true := by
  decide +kernel

theorem test_meets_IllegalHeadersRaiseMalformedPacket :
    holds (exec (.illegalT1wFields 0 15 0 1) (inState .waitingControl [0x3001E001#32]))
      (fun t => record t == some (.malformedPacket, 2, .waitingControl, 4)) = true := by
  decide +kernel

theorem test_meets_MalformedPacketExactlyOnIllegalWords :
    [0x3001E000#32, 0x3001C000#32, 0x40000000#32, 0x60000000#32].all (fun w =>
      chipTableOk (inState .waitingControl [w]).params.chips && decide (inState .waitingControl [w]).Stepping &&
        decide (4 ≤ (inState .waitingControl [w]).remaining)) = true := by
  decide +kernel

theorem test_meets_PlainWriteStoresAndFolds :
    (Reg.flr, 11#5) ∈ [(Reg.fdro, 3#5), (.ctl, 5#5), (.mask, 6#5), (.stat, 7#5), (.cor, 9#5), (.mfwr, 10#5), (.flr, 11#5),
      (.key, 12#5), (.cbc, 13#5)] ∧
    (writing .flr 2#32).st = .waitingData ∧
    0 < (writing .flr 2#32).budget := by
  decide

theorem test_meets_LoutWriteIsNotFolded : (writing .lout 2#32).st = .waitingData ∧ 0 < (writing .lout 2#32).budget := by decide

theorem test_meets_CrcWriteKeepsTheResidual :
    crcFold (writing .crc 0#32).crc 0#5 0#32 = 0 ∧ crcFold (writing .crc 1#32).crc 0#5 1#32 ≠ 0 ∧
    (writing .crc 1#32).st = .waitingData ∧ 0 < (writing .crc 1#32).budget ∧ (writing .crc 1#32).params.strict = false ∧
    (strictly (writing .crc 1#32)).st = .waitingData ∧ 0 < (strictly (writing .crc 1#32)).budget ∧
    (strictly (writing .crc 1#32)).params.strict = true := by
  decide +kernel

theorem test_meets_CmdAndFarWordsRunTheirCommandRow : (writing .cmd 2#32).st = .waitingData ∧
(writing .far 2#32).st = .waitingData := by
  decide

theorem test_meets_IgnoredCommandsOnlyLog :
    14#32 ≠ 2#32 ∧ 14#32 ≠ 7#32 ∧ (writing .cmd 14#32).st = .waitingData ∧ 0 < (writing .cmd 14#32).budget ∧
    0#32 ≠ 2#32 ∧ 0#32 ≠ 7#32 ∧ (writing .far 0#32).st = .waitingData ∧ 0 < (writing .far 0#32).budget ∧
    (writing .far 0#32).regs.cmd = 0#32 := by
  decide

theorem test_meets_CrcResetDiscardsItsOwnWrite :
    holds (exec (.dataFar 5#32) { writing .far 5#32 with regs := { RegFile.zero with cmd := 7#32 } })
      (fun t => t.crc == 0 && t.readReg .far == 5#32 && t.st == .waitingControl) = true := by
  decide +kernel

/-- A frame pending on T and CMD = MFWR at the given FAR, the dispatching word just read. -/
def capturing (far : Word) : State :=
  { onT (writing .cmd 2#32) with pos := 12, pending := some [1, 2, 3], regs := { RegFile.zero with far := far } }

theorem test_meets_MfwrCapturesAtTheCurrentFar :
    holds (exec .cmdMfwr (writing .cmd 2#32)) (fun t => record t == some (.noChipResolved, 18, .waitingData, 4)) = true ∧
    holds (exec .cmdMfwr (onT (writing .cmd 2#32))) (fun t => record t == some (.noPendingFrame, 19, .waitingData, 4)) = true ∧
    holds (exec .cmdMfwr (capturing 0x06000000#32))
      (fun t => record t == some (.unrecognizedBlock, 16, .waitingData, 8)) = true ∧
    holds (exec .cmdMfwr (capturing 0x00000400#32)) (fun t => record t == some (.outOfGeometry, 17, .waitingData, 8)) = true ∧
    holds (exec .cmdMfwr (capturing 0x00000200#32)) (fun t => record t == none && events t == []) = true ∧
    holds (exec .cmdMfwr
        { capturing 0x00000200#32 with
          store := some (slotWrite chipT (allocate chipT) { region := .gclk, column := 0, frame := 1 } [7, 8, 9]) })
      (fun t => record t == none && events t == [(.duplicateFrameCapture, 8, 8)]) = true := by
  decide +kernel

theorem test_meets_CaptureFillsOneSlot :
    secondFrame.Inv ∧ secondFrame.chip = some chipT ∧ secondFrame.pending = some [1, 2, 3] ∧
    slotOf chipT secondFrame.regs.far = some { region := .gclk, column := 0, frame := 1 } ∧ 0 < chipT.columnCount.get .gclk ∧
    1 < chipT.frameCount.get .gclk :=
  ⟨test_inv_second_frame, rfl, rfl, by decide +kernel, by decide, by decide⟩

theorem test_meets_IdcodeWordResolvesTheChip :
    chipTableOk (writing .idcode 0#32).params.chips = true ∧
    holds (exec (.dataIdcode 0x12345678#32) (writing .idcode 0#32))
      (fun t => record t == some (.unrecognizedChip, 5, .waitingData, 8)) = true ∧
    holds (exec (.dataIdcode 0x01234093#32) (onT (writing .idcode 0#32))) (fun t => record t == none && events t == []) = true ∧
    holds (exec (.dataIdcode 0x05678093#32) (onT (writing .idcode 0#32)))
      (fun t => record t == some (.chipChanged, 20, .waitingData, 8)) = true ∧
    holds (exec (.dataIdcode 0x01234093#32) { writing .idcode 0#32 with regs := { RegFile.zero with flr := 2#32 } })
      (fun t => t.chip == some chipT && events t == []) = true ∧
    holds (exec (.dataIdcode 0x01234093#32) (writing .idcode 0#32))
      (fun t => t.chip == some chipT && events t == [(.geometryMismatch, 6, 8)]) = true ∧
    holds (exec (.dataIdcode 0x01234093#32) (strictly (writing .idcode 0#32)))
      (fun t => t.chip == some chipT && record t == some (.geometryMismatch, 6, .waitingData, 8)) = true := by
  decide +kernel

/-- First word, inner word, last word, a later frame, its two capture errors, and the failed advance. -/
theorem test_meets_FdriWordAssemblesAndCaptures :
    holds (exec (.dataFdri 9#32) (inBurst 3 0 [9, 2, 3, 0])) (fun t => t.asm == [9] && t.budget == 2) = true ∧
    holds (exec (.dataFdri 9#32) { inBurst 3 1 [9, 3, 0] with asm := [1] }) (fun t => t.asm == [1, 9] && t.budget == 1) = true ∧
    holds (exec (.dataFdri 9#32) { inBurst 3 2 [9, 0] with asm := [1, 2] }) (fun t => t.pending == some [1, 2, 9] &&
        t.asm == [1, 2, 9] && t.fdPhase == .autoCrc) = true ∧
    holds (exec (.dataFdri 9#32) secondFrame) (fun t => t.asm == [9] && t.pendFar == 0x200#32) = true ∧
    holds (exec (.dataFdri 9#32) { secondFrame with pending := none })
      (fun t => record t == some (.noPendingFrame, 19, .waitingData, 4) && t.pos == 4) = true ∧
    holds (exec (.dataFdri 9#32) { secondFrame with pendFar := 0x06000000#32 })
      (fun t => record t == some (.unrecognizedBlock, 16, .waitingData, 4) && t.pos == 4) = true ∧
    holds (exec (.dataFdri 9#32) { secondFrame with pendFar := 0x00000400#32 })
      (fun t => record t == some (.outOfGeometry, 17, .waitingData, 4) && t.pos == 4) = true ∧
    holds (exec (.dataFdri 9#32) { inBurst 3 2 [9, 0] with asm := [1, 2], regs := { RegFile.zero with far := 0x06000000#32 } })
      (fun t => record t == some (.unrecognizedBlock, 16, .waitingData, 4) && t.pending == some [1, 2, 9] &&
          t.asm == [1, 2, 9] && t.pos == 8) = true := by
  decide +kernel

/-- Between two frames, where the finished frame's words still stand in `asm`, and the step into the next frame. -/
theorem test_meets_AssemblyHoldsTheFrameInProgress :
    secondFrame.Inv ∧ secondFrame.st = .waitingData ∧ secondFrame.actReg = some .fdri ∧ secondFrame.chip = some chipT ∧
    secondFrame.Stepping ∧ secondFrame.fdPhase = .payload ∧ secondFrame.frameInProgress chipT = [] ∧
    ∃ t, step secondFrame = .next t ∧ (t.st != .failed && t.frameInProgress chipT == [4]) = true :=
  ⟨test_inv_second_frame, rfl, rfl, rfl, by decide, rfl, rfl, holds_next (by decide +kernel)⟩

theorem test_meets_AutoCrcWordEndsTheBurst :
    chipTableOk (inBurst 3 3 [7]).params.chips = true ∧ (inBurst 3 3 [7]).Stepping ∧ (inBurst 3 3 [7]).st = .waitingData ∧
    (inBurst 3 3 [7]).actReg = some .fdri ∧ (inBurst 3 3 [7]).fdPhase = .autoCrc ∧ 4 ≤ (inBurst 3 3 [7]).remaining ∧
    (inBurst 3 3 [7]).input.readWord (inBurst 3 3 [7]).pos = 7#32 := by
  decide +kernel

theorem test_meets_ZeroResidual :
    (0xFFFF#32).toNat < 2 ^ 16 ∧ crcFold 0 0#5 0x14003#32 = 0 ∧ 0x14002#32 ≠ 0 ∧ (0x14002#32).toNat < 0x14003 := by
  decide +kernel

/-- Each clause at its edge on T (C = 2): block-0 majors 0 to 7 at the last frame of their region and one past it,
then a major of blocks 1 to 3, bits [31:27] and [8:0] set. -/
theorem test_meets_SlotOfAFarWord :
    [0xF80003FF#32, 0x00020200#32, 0x00040200#32, 0x00060400#32, 0x00080400#32, 0x000A0200#32, 0x000C0200#32, 0x000E0000#32].map
        (slotOf chipT) =
      [some { region := .gclk, column := 0, frame := 1 }, some { region := .iob, column := 0, frame := 1 },
        some { region := .ioi, column := 0, frame := 1 }, some { region := .clb, column := 0, frame := 2 },
        some { region := .clb, column := 1, frame := 2 }, some { region := .ioi, column := 1, frame := 1 },
        some { region := .iob, column := 1, frame := 1 }, some { region := .clb, column := 4, frame := 0 }] ∧
    [0x02020200#32, 0x04040400#32, 0x06000000#32].map (slotOf chipT) =
      [some { region := .bram, column := 1, frame := 1 }, some { region := .bramInt, column := 2, frame := 2 }, none] ∧
    inGeometry chipT { region := .clb, column := 1, frame := 2 } = true ∧
    inGeometry chipT { region := .clb, column := 2, frame := 2 } = false ∧
    inGeometry chipT { region := .clb, column := 1, frame := 3 } = false := by
  decide

/-- Every stage of the odometer: no carry, a carry to major, a carry to block from each region that rolls over, and
the bit stage on block 3. -/
theorem test_meets_FarIncrementIsTheOdometer :
    regionOf chipT 0#2 0#8 = some .gclk ∧ farInc .minor chipT 0#32 = some 0x200#32 ∧
    farInc .minor chipT 0x200#32 = some 0x00020000#32 ∧ farInc .minor chipT 0x000C0200#32 = some 0x02000000#32 ∧
    farInc .minor chipT 0x02020200#32 = some 0x04000000#32 ∧ farInc .bit chipT 2#32 = some 0x200#32 ∧
    farInc .bit chipT 0#32 = some 1#32 ∧ farInc .bit chipT 0x06000000#32 = some 0x06000001#32 ∧
    chipT.frameWordLength = 3 := by
  decide +kernel

theorem test_meets_FarIncrementFailsOnlyOnBlockThree :
    farInc .minor chipT 0xF8000000#32 = some 0x200#32 ∧ farInc .bit chipT 0x06000002#32 = none := by
  decide +kernel

theorem test_meets_TraversalIsInFlatIndexOrder : secondFrame.chip = some chipT ∧
secondFrame.store = some (allocate chipT) := ⟨rfl, rfl⟩

/-- The store is there with an empty slot and, after one step, with a filled one; a column and a frame out of
geometry; and a coherent state with no store. -/
theorem test_meets_LookupAnswersFourWays :
    secondFrame.Inv ∧ lookupFrame secondFrame { region := .gclk, column := 0, frame := 1 } = .notCaptured ∧
    lookupFrame secondFrame { region := .gclk, column := 1, frame := 1 } = .refused .outOfGeometry ∧
    lookupFrame secondFrame { region := .gclk, column := 0, frame := 2 } = .refused .outOfGeometry ∧
    (writing .idcode 0x01234093#32).Inv ∧ (writing .idcode 0x01234093#32).store = none :=
  ⟨test_inv_second_frame, by decide +kernel, by decide +kernel, by decide +kernel, test_inv_writing_idcode, rfl⟩

theorem test_meets_StartActsInIdleOnly :
    chipTableOk (inState .idle []).params.chips = true ∧ (inState .idle []).pins.rst = false ∧
    (inState .idle []).pins.start = true ∧
    { Pins.session with start := false }.rst = false ∧
    holds (step (inState .waitingControl [0x20000000#32])) (fun t => t.pos == 8) = true := by
  decide +kernel

theorem test_meets_EndOfInputEndsTheSession :
    chipTableOk (inState .unsynced []).params.chips = true ∧ (inState .unsynced []).Stepping ∧
    (inState .unsynced []).remaining < 4 ∧
    (inState .waitingControl []).Stepping ∧ (inState .waitingControl []).remaining < 4 := by
  decide +kernel

theorem test_meets_OnlyResetLeavesATerminalState :
    (inState .done []).Terminal ∧ (inState .failed []).Terminal ∧ (inState .done []).pins.rst = false ∧
    { inState .failed [] with pins := { rst := true, start := false, step := false } }.pins.rst = true ∧
    chipTableOk (inState .done []).params.chips = true := by
  decide +kernel

theorem test_meets_RstActsBeforeStartAndStep :
    { inState .waitingData [] with pins := { rst := true, start := true, step := true } }.pins.rst = true ∧
    chipTableOk (inState .waitingData []).params.chips = true := by
  decide +kernel

/-- The answer is the refusal of a malformed table. -/
def refusesTable (r : Result) : Bool :=
  match r with
  | .next _ => false
  | .fault _ => false
  | .refused x => x == .malformedChipTable

/-- Three refused tables, one for each part of R9 that a host can break alone: a length of 0, a length past `u32`,
and an idcode twice (log entry 9). -/
theorem test_refused_tables :
    [[{ chipT with frameWordLength := 0 }], [{ chipT with frameWordLength := 2 ^ 32 }], [chipT, chipT]].all (fun chips =>
      refusesTable (step { inState .idle [] with params := { Params.default with chips := chips } })) = true := by
  decide +kernel

/-- The hypotheses of the statements about every step from a coherent state: StatusMovesByTheTable,
CursorMovesByWholeWords, NoStepWritesTheHostsInputs, DiagIsAppendedAndNeverRead, PacketOpChangesNothing,
NoStepDrivesThePins, CoherenceIsKept and CoherentStatesNeverStop. -/
theorem test_meets_a_step_of_a_coherent_state :
    secondFrame.Inv ∧ (∃ t, step secondFrame = .next t) ∧ secondFrame.pins.rst = false ∧
    secondFrame.pos ≤ secondFrame.input.len ∧
    secondFrame.store = some (allocate chipT) :=
  ⟨test_inv_second_frame, (holds_next (p := fun _ => true) (by decide +kernel)).imp fun _ h => h.1, rfl, by decide +kernel,
    rfl⟩

/-- The three captures of FilledSlotsNeverDecrease, each a coherent step: an in-burst one at `pend_far`, one by a CMD
word at FAR and one by a FAR word at that word; and a step with no capture. -/
theorem test_meets_FilledSlotsNeverDecrease :
    (secondFrame.Inv ∧ secondFrame.store = some (allocate chipT) ∧
      slotOf chipT secondFrame.pendFar = some { region := .gclk, column := 0, frame := 0 } ∧
      ∃ t, step secondFrame = .next t ∧ (t.store == some (slotWrite chipT (allocate chipT) ⟨.gclk, 0, 0⟩ [1, 2, 3])) = true) ∧
    ((captureReady .cmd 2#32 0#32 0x200#32).Inv ∧ ∃ t, step (captureReady .cmd 2#32 0#32 0x200#32) = .next t ∧
      (t.store == some (slotWrite chipT (allocate chipT) ⟨.gclk, 0, 1⟩ [1, 2, 3])) = true) ∧
    ((captureReady .far 0x00020200#32 2#32 0#32).Inv ∧ ∃ t, step (captureReady .far 0x00020200#32 2#32 0#32) = .next t ∧
      (t.store == some (slotWrite chipT (allocate chipT) ⟨.iob, 0, 1⟩ [1, 2, 3])) = true) ∧
    ((captureReady .cmd 5#32 2#32 0#32).Inv ∧ ∃ t, step (captureReady .cmd 5#32 2#32 0#32) = .next t ∧
      (t.store == some (allocate chipT)) = true) :=
  ⟨⟨test_inv_second_frame, rfl, rfl, holds_next (by decide +kernel)⟩,
    ⟨inv_capture_ready _ _ _ _ (by decide) (by decide +kernel) (by decide +kernel) (by decide +kernel), holds_next (by decide +kernel)⟩,
    ⟨inv_capture_ready _ _ _ _ (by decide) (by decide +kernel) (by decide +kernel) (by decide +kernel), holds_next (by decide +kernel)⟩,
    ⟨inv_capture_ready _ _ _ _ (by decide) (by decide +kernel) (by decide +kernel) (by decide +kernel), holds_next (by decide +kernel)⟩⟩

/-- Its edge: `WaitingData` is left on the last payload word. -/
theorem test_meets_StatusMovesByTheTable :
    (writing .idcode 0x01234093#32).Inv ∧ ∃ t, step (writing .idcode 0x01234093#32) = .next t ∧
    (t.st == .waitingControl) = true :=
  ⟨test_inv_writing_idcode, holds_next (by decide +kernel)⟩

theorem test_meets_FailureRecordNamesItsStep :
    (∃ t, step (inState .waitingControl [0]) = .next t ∧ (t.st == .failed) = true) ∧
    (∃ t, step (inState .failed [0]) = .next t ∧ (t.st == .failed) = true) ∧
    ∃ t, step (inState .waitingControl [0x20000000#32]) = .next t ∧ (t.st == .waitingControl) = true :=
  ⟨holds_next (by decide +kernel), holds_next (by decide +kernel), holds_next (by decide +kernel)⟩

theorem test_meets_ErrorRecordsCarryTheirArgument :
    (inState .waitingControl [0]).err = none ∧ (capturing 0x06000000#32).err = none ∧
    holds (exec (classify 0x60000000#32) (inState .waitingControl [0])) (fun t => t.err.isSome) = true ∧
    holds (exec .cmdMfwr (capturing 0x06000000#32)) (fun t => t.err.map (fun e => e.kind) == some .unrecognizedBlock) = true ∧
    holds (exec .cmdMfwr (capturing 0x00000400#32)) (fun t => t.err.map (fun e => e.kind) == some .outOfGeometry) = true ∧
    holds (exec (.dataFdri 9#32) { secondFrame with pendFar := 0xFE000005#32 })
      (fun t => t.err.map (fun e => e.info) == some (.block 3#2 0xFE000005#32)) = true ∧
    holds (exec (.dataFdri 9#32) { inBurst 3 2 [9, 0] with asm := [1, 2], regs := { RegFile.zero with far := 0x06000000#32 } })
      (fun t => t.err.map (fun e => e.info) == some (.block 3#2 0x06000000#32)) = true ∧
    holds (exec (.dataFdri 9#32) { secondFrame with pendFar := 0x00000400#32 })
      (fun t => t.err.map (fun e => e.kind) == some .outOfGeometry) = true := by
  decide +kernel

theorem test_meets_ChipIsResolvedOnce :
    (∃ t, step (writing .idcode 0x01234093#32) = .next t ∧ (t.chip == some chipT) = true) ∧
    (writing .idcode 0x01234093#32).chip = none ∧ secondFrame.chip = some chipT :=
  ⟨holds_next (by decide +kernel), rfl, rfl⟩

/-- One witness for each reason a register changes: its own word, the accumulator's, and FAR by an FDRI word. -/
theorem test_meets_RegistersChangeOnlyWhenAddressed :
    (∃ t, step (writing .ctl 5#32) = .next t ∧ (t.readReg .ctl != 0 && t.readReg .crc != 0) = true) ∧
    ∃ t, step { inBurst 3 2 [3, 0] with asm := [1, 2] } = .next t ∧ (t.readReg .far != 0) = true :=
  ⟨holds_next (by decide +kernel), holds_next (by decide +kernel)⟩

theorem test_meets_CoherenceHoldsAtReset : chipTableOk [chipT, chipU] = true := by decide +kernel

theorem test_meets_EventsStayWellFormed :
    ((writing .crc 1#32).EventInv ∧ ∃ t, step (writing .crc 1#32) = .next t ∧ (t.diag != []) = true) ∧
    (strictly (writing .crc 1#32)).EventInv ∧
      ∃ t, step (strictly (writing .crc 1#32)) = .next t ∧ (t.err.map (fun e => e.kind) == some .crcResidualNonzero) = true :=
  ⟨⟨by constructor <;> decide, holds_next (by decide +kernel)⟩, by constructor <;> decide, holds_next (by decide +kernel)⟩

theorem test_meets_EverySessionEnds :
    { inState .unsynced [7] with pos := 0 }.Inv ∧ { inState .unsynced [7] with pos := 0 }.Stepping :=
  ⟨test_inv_unsynced, by decide⟩

end Sys2Proof.Tests
end

section
/-! SUPPORT. What each shape of a step leaves of one group of elements: the cursor, the host's inputs, the error
record and the chip. One lemma per shape, so that a rule of the whole machine is a case split over `StepShape`. -/

namespace Sys2Proof.Machine

/-! ## The cursor (spec/10_state.md R21) -/

theorem Selected.pos {s s0 : State} (h : Selected s s0) : s0.pos = s.pos + 4 := by cases h <;> rfl

theorem HeaderShape.pos {s t : State} (h : HeaderShape s t) : t.pos = s.pos + 4 := by
  cases h with
  | stay h | fail h | enter h | burst h => exact h.pos

theorem HookShape.pos {v : Word} {s1 u : State} {r : Reg} (h : HookShape v s1 r u) : u.pos = s1.pos := by
  cases h <;> simp

theorem FrameBegun.pos {c : ChipDescriptor} {s s1 : State} (h : FrameBegun c s s1) : s1.pos = s.pos := by
  cases h <;> simp

/-- A failed capture leaves its word unread (R184); every other FDRI word is read. -/
theorem BurstShape.pos {c : ChipDescriptor} {v : Word} {s t : State} (h : BurstShape c v s t) :
    t.pos = s.pos ∨ t.pos = s.pos + 4 := by
  cases h with
  | captureFail => exact .inl rfl
  | word h | frame h | advanceFail h => exact .inr (by simp [h.pos])

/-- A step stays where it is, or has read one whole word that the buffer holds. -/
theorem StepShape.pos {s t : State} (h : StepShape s t) : t.pos = s.pos ∨ (t.pos = s.pos + 4 ∧ 4 ≤ s.remaining) := by
  cases h with
  | stay | start | desync | finish => exact .inl rfl
  | scan _ hr | sync _ hr | autoCrc _ hr => exact .inr ⟨rfl, hr⟩
  | header _ hr ht => exact .inr ⟨ht.pos, hr⟩
  | burst _ hr _ _ _ _ _ ht => exact ht.pos.imp_right fun e => ⟨e, hr⟩
  | count _ hr _ _ _ _ hu | hookFail _ hr _ _ _ _ hu => exact .inr ⟨hu.pos, hr⟩

/-! ## The host's inputs (spec/10_state.md R43) -/

/-- The parameters and the buffer of `t` are those of `s`. -/
def State.SameInputs (s t : State) : Prop := t.params = s.params ∧ t.input = s.input

theorem Selected.sameInputs {s s0 : State} (h : Selected s s0) : s.SameInputs s0 := by cases h <;> exact ⟨rfl, rfl⟩

theorem HeaderShape.sameInputs {s t : State} (h : HeaderShape s t) : s.SameInputs t := by
  cases h with
  | stay h | fail h | enter h | burst h => exact h.sameInputs

theorem HookShape.sameInputs {v : Word} {s1 u : State} {r : Reg} (h : HookShape v s1 r u) : s1.SameInputs u := by
  cases h <;> simp [State.SameInputs]

theorem FrameBegun.sameInputs {c : ChipDescriptor} {s s1 : State} (h : FrameBegun c s s1) : s.SameInputs s1 := by
  cases h <;> simp [State.SameInputs]

theorem BurstShape.sameInputs {c : ChipDescriptor} {v : Word} {s t : State} (h : BurstShape c v s t) : s.SameInputs t := by
  cases h with
  | captureFail => exact ⟨rfl, rfl⟩
  | word h | frame h | advanceFail h => exact h.sameInputs

theorem StepShape.sameInputs {s t : State} (h : StepShape s t) : s.SameInputs t := by
  cases h with
  | stay | start | desync | finish | scan | sync | autoCrc => exact ⟨rfl, rfl⟩
  | header _ _ ht | burst _ _ _ _ _ _ _ ht => exact ht.sameInputs
  | count _ _ _ _ _ _ hu | hookFail _ _ _ _ _ _ hu => exact hu.sameInputs

/-! ## The error record (spec/10_state.md R38, spec/60_exceptions.md R262) -/

/-- `t` follows a step from `s` whose word stands at `off`: it is not in `Failed` and the record is as it was, or it
is and the record names `off` and the state of `s`. -/
def State.Reports (s : State) (off : Nat) (t : State) : Prop :=
  (t.st ≠ .failed ∧ t.err = s.err) ∨
  (t.st = .failed ∧ ∃ k i, t.err = some { kind := k, code := k.code, state := s.st, offset := off, info := i })

theorem State.reports_raise {s s0 : State} (h : s0.st = s.st) (k : EventKind) (i : Info) (off : Nat) :
    s.Reports off (s0.raise k i off) :=
  .inr ⟨rfl, k, i, by simp [State.raise, h]⟩

theorem Selected.st_err {s s0 : State} (h : Selected s s0) : s0.st = s.st ∧ s0.err = s.err := by
  cases h <;> exact ⟨rfl, rfl⟩

theorem HeaderShape.reports {s t : State} (h : HeaderShape s t) (hs : s.st ≠ .failed) : s.Reports s.pos t := by
  cases h with
  | stay h => exact .inl ⟨h.st_err.1 ▸ hs, h.st_err.2⟩
  | fail h k _ w => exact State.reports_raise h.st_err.1 k _ _
  | enter h | burst h => exact .inl ⟨by simp, h.st_err.2⟩

theorem HookShape.reports {v : Word} {s1 u : State} {r : Reg} (h : HookShape v s1 r u) (hs : s1.st ≠ .failed) :
    s1.Reports s1.wordOffset u := by
  cases h with
  | same | residual | ignored | clear | resolved | resolvedMismatch => exact .inl ⟨hs, rfl⟩
  | captured => exact .inl ⟨by simpa using hs, by simp⟩
  | residualFail | captureFail | resolvedFail | resolveFail => exact State.reports_raise rfl _ _ _

theorem FrameBegun.st_err {c : ChipDescriptor} {s s1 : State} (h : FrameBegun c s s1) : s1.st = s.st ∧ s1.err = s.err := by
  cases h <;> simp

theorem BurstShape.reports {c : ChipDescriptor} {v : Word} {s t : State} (h : BurstShape c v s t) (hs : s.st ≠ .failed) :
    s.Reports s.pos t := by
  cases h with
  | captureFail => exact State.reports_raise rfl _ _ _
  | word h | frame h => exact .inl ⟨h.st_err.1 ▸ hs, h.st_err.2⟩
  | advanceFail h => exact State.reports_raise h.st_err.1 _ _ _

/-- No step leaves `Failed`, and a step from any other state reports at the cursor it starts from. -/
theorem StepShape.reports {s t : State} (h : StepShape s t) : (s.st = .failed ∧ t = s) ∨ (s.st ≠ .failed ∧ s.Reports s.pos t) := by
  by_cases hs : s.st = .failed
  · cases h with
    | stay => exact .inl ⟨hs, rfl⟩
    | start h | desync h | finish h | scan h | sync h | header h | autoCrc h | burst h | count h | hookFail h => simp [hs] at h
  · refine .inr ⟨hs, ?_⟩
    cases h with
    | stay | scan => exact .inl ⟨hs, rfl⟩
    | start | finish | sync | autoCrc => exact .inl ⟨by simp [State.startSession, State.endSession], rfl⟩
    | desync => exact State.reports_raise rfl _ _ _
    | header _ _ ht | burst _ _ _ _ _ _ _ ht => exact ht.reports hs
    | hookFail _ _ _ _ _ _ hu => simpa [State.Reports] using hu.reports hs
    | count _ _ _ _ _ _ hu hst =>
      rcases hu.reports hs with ⟨_, he⟩ | ⟨hf, _⟩
      · exact .inl ⟨by rw [State.finishPayload_st]; split <;> simp [hst], he⟩
      · exact absurd hf hst

/-! ## The chip (spec/10_state.md R35) -/

theorem Selected.chip {s s0 : State} (h : Selected s s0) : s0.chip = s.chip := by cases h <;> rfl

theorem HeaderShape.chip {s t : State} (h : HeaderShape s t) : t.chip = s.chip := by
  cases h with
  | stay h | fail h | enter h | burst h => exact h.chip

theorem FrameBegun.chip {c : ChipDescriptor} {s s1 : State} (h : FrameBegun c s s1) : s1.chip = s.chip := by
  cases h <;> simp

theorem BurstShape.chip {c : ChipDescriptor} {v : Word} {s t : State} (h : BurstShape c v s t) : t.chip = s.chip := by
  cases h with
  | captureFail => rfl
  | word h | frame h | advanceFail h => exact h.chip

/-- The IDCODE word `v` resolves the chip of `s`: `t` has an entry of the table with that idcode and its empty table. -/
def State.Resolves (s : State) (v : Word) (t : State) : Prop :=
  s.chip = none ∧ t.regs = s.regs ∧
    ∃ c ∈ s.params.chips, c.idcode = v ∧ t.chip = some c ∧ t.store = some (allocate c)

theorem HookShape.chip {v : Word} {s1 u : State} {r : Reg} (h : HookShape v s1 r u) :
    u.chip = s1.chip ∨ (r = .idcode ∧ s1.Resolves v u) := by
  cases h with
  | same | residual | residualFail | ignored | clear | captureFail | resolveFail => exact .inl rfl
  | captured => exact .inl (by simp)
  | resolved c hm hv hn | resolvedMismatch c hm hv hn | resolvedFail c hm hv hn =>
    exact .inr ⟨rfl, hn, rfl, c, hm, hv, rfl, rfl⟩

/-- A step keeps the chip, or it reads the IDCODE word that resolves it. -/
theorem StepShape.chip {s t : State} (h : StepShape s t) :
    t.chip = s.chip ∨
    (s.st = .waitingData ∧ s.actReg = some .idcode ∧
      (s.payloadWrite .idcode (s.input.readWord s.pos)).Resolves (s.input.readWord s.pos) t) := by
  cases h with
  | stay | start | desync | finish | scan | sync | autoCrc => exact .inl rfl
  | header _ _ ht | burst _ _ _ _ _ _ _ ht => exact .inl ht.chip
  | count h _ r ha _ _ hu | hookFail h _ r ha _ _ hu =>
    rcases hu.chip with e | ⟨rfl, hres⟩
    · exact .inl e
    · exact .inr ⟨h, ha, hres⟩

/-! ## Rules of the whole machine -/

theorem StepShape.of_step {s t : State} (h : step s = .next t) (hr : s.pins.rst = false) : StepShape s t := by
  rcases step_shape h with ⟨hr', _⟩ | ⟨_, ht⟩
  · simp [hr] at hr'
  · exact ht

/-- Settles O38: a step that moves the cursor has read a word, so four bytes were left. -/
theorem cursorMovesByWholeWords : Obligations.CursorMovesByWholeWords := by
  intro s t h hr hpos
  have ht := StepShape.of_step h hr
  obtain ⟨_, hinput⟩ := ht.sameInputs
  rw [hinput]
  rcases ht.pos with e | ⟨e, hrem⟩
  · exact ⟨.inl e, e ▸ hpos⟩
  · refine ⟨.inr e, ?_⟩
    unfold State.remaining at hrem
    omega

/-- Settles O39: `rst` keeps the host's inputs, and so does every shape of a step. -/
theorem noStepWritesTheHostsInputs : Obligations.NoStepWritesTheHostsInputs := by
  intro s t h
  rcases step_shape h with ⟨_, rfl⟩ | ⟨_, ht⟩
  · exact ⟨rfl, rfl⟩
  · exact ht.sameInputs

/-- Settles O43: outside `Failed` a step reports at its own start, and in `Failed` it does nothing. -/
theorem failureRecordNamesItsStep : Obligations.FailureRecordNamesItsStep := by
  intro s t h hr
  rcases (StepShape.of_step h hr).reports with ⟨hs, rfl⟩ | ⟨hs, ⟨ht, he⟩ | ⟨ht, he⟩⟩
  · exact ⟨fun hns => absurd hs hns, fun _ => rfl⟩
  · exact ⟨fun _ htf => absurd htf ht, fun _ => he⟩
  · exact ⟨fun _ _ => he, fun hor => hor.elim (absurd ht) (absurd · hs)⟩

/-- Settles O45: only the hook of an IDCODE word sets the chip, from `none`, and it allocates the table with it. -/
theorem chipIsResolvedOnce : Obligations.ChipIsResolvedOnce := by
  intro s t h hr
  rcases (StepShape.of_step h hr).chip with e | ⟨hst, hact, hnone, hregs, c, hc, hid, hchip, hstore⟩
  · exact ⟨fun c hc => e.trans hc, fun c hn hc => by simp [← e, hc] at hn⟩
  · refine ⟨fun c0 h0 => absurd (hnone.symm.trans h0) (by simp), fun c' _ hc' => ?_⟩
    obtain rfl : c = c' := by simpa [hchip] using hc'
    exact ⟨hst, hact, hc, by simp [hregs, hid], hstore⟩

end Sys2Proof.Machine
end

section
/-! SUPPORT. The two elements no step reads, `diag` and `act_op`: each meaning commutes with events put in front of
`diag` and with another `act_op` put in place, but for a Type-1 header, which sets `act_op` itself. -/

namespace Sys2Proof.Machine

/-- The state with the events `d` before its own in `diag`, and `f` of its packet op in `act_op`. -/
def State.overlay (d : List DiagEvent) (f : PacketOp → PacketOp) (s : State) : State :=
  { s with diag := d ++ s.diag, actOp := f s.actOp }

/-- The answer with its next state changed. -/
def mapNext (g : State → State) : Result → Result
  | .next s => .next (g s)
  | .fault x => .fault x
  | .refused x => .refused x

@[simp] theorem mapNext_next (g : State → State) (s : State) : mapNext g (.next s) = .next (g s) := rfl

section
variable (d : List DiagEvent) (f : PacketOp → PacketOp) (s : State)

/-! ## What an overlay leaves as it was -/

@[simp] theorem State.overlay_st : (s.overlay d f).st = s.st := rfl
@[simp] theorem State.overlay_pos : (s.overlay d f).pos = s.pos := rfl
@[simp] theorem State.overlay_crc : (s.overlay d f).crc = s.crc := rfl
@[simp] theorem State.overlay_regs : (s.overlay d f).regs = s.regs := rfl
@[simp] theorem State.overlay_actReg : (s.overlay d f).actReg = s.actReg := rfl
@[simp] theorem State.overlay_fdJ : (s.overlay d f).fdJ = s.fdJ := rfl
@[simp] theorem State.overlay_pending : (s.overlay d f).pending = s.pending := rfl
@[simp] theorem State.overlay_pendFar : (s.overlay d f).pendFar = s.pendFar := rfl
@[simp] theorem State.overlay_chip : (s.overlay d f).chip = s.chip := rfl
@[simp] theorem State.overlay_store : (s.overlay d f).store = s.store := rfl
@[simp] theorem State.overlay_params : (s.overlay d f).params = s.params := rfl
@[simp] theorem State.overlay_pins : (s.overlay d f).pins = s.pins := rfl
@[simp] theorem State.overlay_remaining : (s.overlay d f).remaining = s.remaining := rfl
@[simp] theorem State.overlay_wordOffset : (s.overlay d f).wordOffset = s.wordOffset := rfl
@[simp] theorem State.overlay_context : (s.overlay d f).context = s.context := rfl

/-! ## Operations that answer a state -/

@[simp] theorem State.readWord_overlay : (s.overlay d f).readWord = s.readWord.overlay d f := rfl
@[simp] theorem State.startSession_overlay : (s.overlay d f).startSession = s.startSession.overlay d f := rfl
@[simp] theorem State.raise_overlay (k : EventKind) (i : Info) (off : Nat) :
    (s.overlay d f).raise k i off = (s.raise k i off).overlay d f := rfl
@[simp] theorem State.payloadWrite_overlay (r : Reg) (v : Word) :
    (s.overlay d f).payloadWrite r v = (s.payloadWrite r v).overlay d f := rfl
@[simp] theorem State.beginPayload_overlay (n : Nat) :
    (s.overlay d f).beginPayload n = (s.beginPayload n).overlay d f := rfl
@[simp] theorem State.beginBurst_overlay (n : Nat) : (s.overlay d f).beginBurst n = (s.beginBurst n).overlay d f := rfl
@[simp] theorem appendWord_overlay (v : Word) : appendWord v (s.overlay d f) = (appendWord v s).overlay d f := rfl

/-- An event is appended behind the events put in front. -/
@[simp] theorem State.log_overlay (k : EventKind) (i : Info) (off : Nat) :
    (s.overlay d f).log k i off = (s.log k i off).overlay d f := by
  simp [State.log, State.overlay]

@[simp] theorem State.warn_overlay (k : EventKind) (i : Info) (off : Nat) :
    (s.overlay d f).warn k i off = (s.warn k i off).overlay d f := by
  by_cases h : (s.params.strict && k.promotable) = true <;> simp [State.warn, h]

@[simp] theorem flrCheck_overlay (c : ChipDescriptor) : flrCheck c (s.overlay d f) = (flrCheck c s).overlay d f := by
  by_cases h : s.regs.flr.toNat + 1 = c.frameWordLength <;> simp [flrCheck, h]

@[simp] theorem endFrame_overlay (c : ChipDescriptor) : endFrame c (s.overlay d f) = (endFrame c s).overlay d f := by
  unfold endFrame
  simp only [State.overlay_params, State.overlay_regs]
  split <;> rfl

/-- The checks of `enter_data` look at the buffer, the active register and the chip. -/
@[simp] theorem enterData_overlay (n : Nat) (w : Word) (off : Nat) :
    enterData n w off (s.overlay d f) = (enterData n w off s).overlay d f := by
  by_cases hrem : s.remaining < 4 * payloadNeed s.actReg n
  · simp [enterData, hrem]
  · by_cases hf : s.actReg = some .fdri
    · cases hc : s.chip with
      | none => simp [enterData, hf, hc, hf ▸ hrem]
      | some c => by_cases hm : n % c.frameWordLength = 0 <;> simp [enterData, hf, hc, hm, hf ▸ hrem]
    · simp [enterData, hrem, hf]

@[simp] theorem headerPayload_overlay (n : Nat) (w : Word) (off : Nat) :
    headerPayload n w off (s.overlay d f) = (headerPayload n w off s).overlay d f := by
  unfold headerPayload
  split
  · rfl
  · exact enterData_overlay d f s n w off

/-! ## Hooks and meanings -/

/-- Two parts of a step that commute with an overlay do so one after the other: `thenStep` looks at `st` alone. -/
theorem thenStep_overlay {r r' : Result} {k k' : State → Result} (hr : r' = mapNext (State.overlay d f) r)
    (hk : ∀ u, k' (u.overlay d f) = mapNext (State.overlay d f) (k u)) :
    thenStep r' k' = mapNext (State.overlay d f) (thenStep r k) := by
  subst hr
  cases r with
  | fault | refused => rfl
  | next u => by_cases hu : u.st = .failed <;> simp [thenStep, hu, hk]

theorem captureInto_overlay (c : ChipDescriptor) (k : SlotKey) (a : Frame) (off : Nat) :
    captureInto c k a off (s.overlay d f) = mapNext (State.overlay d f) (captureInto c k a off s) := by
  cases ht : s.store with
  | none => simp [captureInto, ht, mapNext]
  | some t =>
    simp only [captureInto, State.overlay_store, ht, State.warn_overlay]
    split <;> rfl

theorem capture_overlay (frame : Option Frame) (far : Word) (off : Nat) :
    capture frame far off (s.overlay d f) = mapNext (State.overlay d f) (capture frame far off s) := by
  unfold capture
  simp only [State.overlay_chip]
  split
  · rfl
  · split
    · rfl
    · split
      · rfl
      · split
        · exact captureInto_overlay d f s _ _ _ _
        · rfl

theorem ignoreCommand_overlay (code : Word) :
    ignoreCommand code (s.overlay d f) = mapNext (State.overlay d f) (ignoreCommand code s) := by
  simp [ignoreCommand]

theorem dispatch_overlay (code : Word) :
    dispatch code (s.overlay d f) = mapNext (State.overlay d f) (dispatch code s) := by
  unfold dispatch
  split
  case h_3 => exact capture_overlay d f s _ _ _
  case h_8 => rfl
  all_goals exact ignoreCommand_overlay d f s _

theorem residualCheck_overlay : residualCheck (s.overlay d f) = mapNext (State.overlay d f) (residualCheck s) := by
  by_cases h : s.crc = 0#16 <;> simp [residualCheck, h]

theorem resolveChip_overlay (v : Word) :
    resolveChip v (s.overlay d f) = mapNext (State.overlay d f) (resolveChip v s) := by
  unfold resolveChip
  simp only [State.overlay_params, State.overlay_chip]
  split
  · rfl
  · rename_i c _
    split
    · split <;> rfl
    · exact congrArg Host.Outcome.next (flrCheck_overlay d f { s with chip := some c, store := some (allocate c) } c)

theorem hookedWrite_overlay {hook hook' : State → Result} (r : Reg) (v : Word)
    (hk : hook' ((s.payloadWrite r v).overlay d f) = mapNext (State.overlay d f) (hook (s.payloadWrite r v))) :
    hookedWrite r v hook' (s.overlay d f) = mapNext (State.overlay d f) (hookedWrite r v hook s) :=
  thenStep_overlay d f hk fun _ => rfl

theorem beginFrame_overlay : beginFrame (s.overlay d f) = mapNext (State.overlay d f) (beginFrame s) := by
  refine thenStep_overlay d f ?_ fun _ => rfl
  by_cases h : 0 < s.fdJ <;> simp [h, capture_overlay]

theorem fdriStep_overlay (c : ChipDescriptor) (v : Word) :
    fdriStep c v (s.overlay d f) = mapNext (State.overlay d f) (fdriStep c v s) := by
  refine thenStep_overlay d f ?_ fun u => thenStep_overlay d f ?_ fun _ => rfl
  · by_cases h : s.fdJ % c.frameWordLength = 0 <;> simp [h, beginFrame_overlay]
  · by_cases h : s.fdJ % c.frameWordLength + 1 = c.frameWordLength <;> simp [h]

theorem execDataFdri_overlay (v : Word) :
    execDataFdri v (s.overlay d f) = mapNext (State.overlay d f) (execDataFdri v s) := by
  unfold execDataFdri
  simp only [State.overlay_chip]
  split
  · rfl
  · exact fdriStep_overlay d f s _ v

theorem execT2_overlay (op : BitVec 2) (n : BitVec 27) :
    execT2 op n (s.overlay d f) = mapNext (State.overlay d f) (execT2 op n s) := by
  by_cases h : s.actReg = none <;> simp [execT2, illegalStep, h]

/-- A Type-1 header sets `act_op`, so the op put in place is gone. -/
theorem t1Step_overlay (o : PacketOp) (r : Reg) (n : BitVec 11) :
    t1Step o r n (s.overlay d f) = mapNext (State.overlay d id) (t1Step o r n s) :=
  congrArg Host.Outcome.next (headerPayload_overlay d id { s.readWord with actReg := some r, actOp := o } _ _ _)

/-- The meaning of every row commutes with an overlay, the op put in place by it lost or kept. -/
theorem exec_overlay (i : Instr) :
    exec i (s.overlay d f) = mapNext (State.overlay d f) (exec i s) ∨
    exec i (s.overlay d f) = mapNext (State.overlay d id) (exec i s) := by
  cases i with
  | t1wCrc n | t1wFar n | t1wFdri n | t1wFdro n | t1wCmd n | t1wCtl n | t1wMask n | t1wStat n | t1wLout n | t1wCor n
  | t1wMfwr n | t1wFlr n | t1wKey n | t1wCbc n | t1wIdcode n => exact .inr (t1Step_overlay d f s .write _ n)
  | t1rCrc n | t1rFar n | t1rFdri n | t1rFdro n | t1rCmd n | t1rCtl n | t1rMask n | t1rStat n | t1rLout n | t1rCor n
  | t1rMfwr n | t1rFlr n | t1rKey n | t1rCbc n | t1rIdcode n => exact .inr (t1Step_overlay d f s .read _ n)
  | t2 op n => exact .inl (execT2_overlay d f s op n)
  | dataCrc v => exact .inl (hookedWrite_overlay d f s .crc v (residualCheck_overlay d f _))
  | dataFar v => exact .inl (hookedWrite_overlay d f s .far v (dispatch_overlay d f _ _))
  | dataCmd v => exact .inl (hookedWrite_overlay d f s .cmd v (dispatch_overlay d f _ v))
  | dataIdcode v => exact .inl (hookedWrite_overlay d f s .idcode v (resolveChip_overlay d f _ v))
  | dataFdri v => exact .inl (execDataFdri_overlay d f s v)
  | cmdMfwr => exact .inl (capture_overlay d f s _ _ _)
  | cmdNull | cmdWcfg | cmdLfrm | cmdRcfg | cmdStart | cmdRcap | cmdAghigh | cmdSwitch | cmdGrestore | cmdShutdown
  | cmdGcapture | cmdDesynch | cmdOther => exact .inl (congrArg Host.Outcome.next (State.log_overlay d f s _ _ _))
  | sync | scan | noop | cmdRcrc | autocrc | illegalT1Op11 | illegalT1rFields | illegalT1wFields | illegalType0
  | illegalType3 | illegalType4 | illegalType5 | illegalType6 | illegalType7 | dataFdro | dataCtl | dataMask
  | dataStat | dataLout | dataCor | dataMfwr | dataFlr | dataKey | dataCbc => exact .inl rfl

/-! ## A step -/

theorem wordStep_overlay :
    wordStep (s.overlay d f) = mapNext (State.overlay d f) (wordStep s) ∨
    wordStep (s.overlay d f) = mapNext (State.overlay d id) (wordStep s) := by
  by_cases hrem : s.remaining < 4
  · left
    rw [wordStep, wordStep, fetch_end hrem, fetch_end (s := s.overlay d f) hrem, State.atEndOfInput, State.atEndOfInput,
      State.overlay_st]
    cases s.st <;> rfl
  · cases hc : s.context with
    | none => exact .inl (by simp [wordStep, State.fetch, hrem, hc, mapNext])
    | some c =>
      rw [wordStep, wordStep, fetch_word (by omega) hc, fetch_word (s := s.overlay d f) (Nat.le_of_not_lt hrem) hc]
      exact exec_overlay d f s _

/-- Outside `rst` a step commutes with an overlay, the op put in place by it lost or kept. -/
theorem step_overlay (hr : s.pins.rst = false) :
    step (s.overlay d f) = mapNext (State.overlay d f) (step s) ∨
    step (s.overlay d f) = mapNext (State.overlay d id) (step s) := by
  cases hc : chipTableOk s.params.chips with
  | false => exact .inl (by rw [step_refused hc, step_refused (s := s.overlay d f) hc]; rfl)
  | true =>
    cases hst : s.st with
    | idle => exact .inl (by cases hp : s.pins.start <;> simp [step_idle, hc, hr, hst, hp])
    | done | failed => exact .inl (by simp [step_terminal, hc, hr, hst])
    | unsynced | waitingControl | waitingData =>
      have hrun : s.Running := by simp [State.Running, hst]
      cases hp : s.pins.step with
      | false => exact .inl (by simp [step, hc, hr, hst, hp])
      | true =>
        rw [step_running hc hr hp hrun, step_running (s := s.overlay d f) hc hr hp hrun]
        exact wordStep_overlay d f s
end

/-! ## Rules of the whole machine -/

/-- Events put in front of `diag` stay in front of those the step appends, and change nothing else. -/
theorem step_prepend_diag {s : State} (hr : s.pins.rst = false) (d : List DiagEvent) :
    step (s.overlay d id) = mapNext (State.overlay d id) (step s) :=
  (step_overlay d id s hr).elim id id

/-- Settles O41: the step from an empty `diag` says which events are appended, and every other list is that one with
events put in front. -/
theorem diagIsAppendedAndNeverRead : Obligations.DiagIsAppendedAndNeverRead := by
  intro s t h hr
  have prepend : ∀ d, step { s with diag := d } = mapNext (State.overlay d id) (step { s with diag := [] }) := fun d => by
    rw [← step_prepend_diag (s := { s with diag := [] }) hr d]
    simp [State.overlay]
  cases h0 : step { s with diag := [] } with
  | fault x | refused x => simpa [h, h0, mapNext] using prepend s.diag
  | next t0 =>
    have ht : t = t0.overlay s.diag id := by simpa [h, h0] using prepend s.diag
    subst ht
    exact ⟨t0.diag, rfl, fun d => by rw [prepend, h0]; rfl⟩

/-- Settles O42: `rst` and a Type-1 header set `act_op` whatever it was, and every other step carries it along. -/
theorem packetOpChangesNothing : Obligations.PacketOpChangesNothing := by
  intro s t o h
  cases hr : s.pins.rst with
  | true =>
    obtain ⟨hc, ⟨_, rfl⟩ | ⟨hr', _⟩ | ⟨hr', _⟩ | ⟨hr', _⟩⟩ := step_cases h
    · exact ⟨.write, step_rst hc hr⟩
    all_goals simp [hr] at hr'
  | false =>
    rcases step_overlay [] (fun _ => o) s hr with e | e <;> rw [h] at e
    · exact ⟨o, e⟩
    · exact ⟨t.actOp, e⟩

end Sys2Proof.Machine
end

section
/-! SUPPORT. The words read in `WaitingControl`: the row of each type and op, which of them change only the cursor,
and which raise MalformedPacket. -/

namespace Sys2Proof.Machine

/-- A step in `WaitingControl` with a word left runs the row of `classify` (spec/30_encoding.md R94). -/
theorem step_control {s : State} (hc : chipTableOk s.params.chips = true) (hp : s.Stepping)
    (hs : s.st = .waitingControl) (hrem : 4 ≤ s.remaining) :
    step s = exec (classify (s.input.readWord s.pos)) s := by
  obtain ⟨hrst, hstep⟩ := hp
  have hctx : s.context = some .control := by simp [State.context, hs]
  rw [step_running hc hrst hstep (.inr (.inl hs)), wordStep, fetch_word hrem hctx, decodeWord]

/-! ## Rows by type and op (spec/30_encoding.md R82, R85) -/

section
variable {w : Word}

theorem classify_noop (ht : w.extractLsb' 29 3 = 1#3) (ho : w.extractLsb' 27 2 = 0#2) :
    classify w = .noop (w.extractLsb' 0 27) := by
  simp [classify, ht, ho]

theorem classify_t1 (o : PacketOp) (ht : w.extractLsb' 29 3 = 1#3) (ho : w.extractLsb' 27 2 = o.bits) :
    classify w = decodeT1 o w := by
  cases o <;> simp [classify, ht, ho, PacketOp.bits]

theorem classify_op11 (ht : w.extractLsb' 29 3 = 1#3) (ho : w.extractLsb' 27 2 = 3#2) :
    classify w = .illegalT1Op11 (w.extractLsb' 0 27) := by
  simp [classify, ht, ho]

theorem classify_t2 (ht : w.extractLsb' 29 3 = 2#3) :
    classify w = .t2 (w.extractLsb' 27 2) (w.extractLsb' 0 27) := by
  simp [classify, ht]

/-- Every word of a type other than 001 and 010 is ILLEGAL. -/
theorem exec_classify_otherType (h1 : w.extractLsb' 29 3 ≠ 1#3) (h2 : w.extractLsb' 29 3 ≠ 2#3) (s : State) :
    ∃ x, exec (classify w) s = illegalStep x s := by
  unfold classify
  split
  case h_2 h => exact absurd (BitVec.eq_of_toNat_eq h) h1
  case h_3 h => exact absurd (BitVec.eq_of_toNat_eq h) h2
  all_goals exact ⟨_, rfl⟩
end

/-- The op field of a Type-1 header is NOOP's, that of a READ or WRITE, or 11. -/
theorem t1Op_cases : ∀ op : BitVec 2, op = 0#2 ∨ (∃ o : PacketOp, op = o.bits) ∨ op = 3#2
  | 0#2 => .inl rfl
  | 1#2 => .inr (.inl ⟨.read, rfl⟩)
  | 2#2 => .inr (.inl ⟨.write, rfl⟩)
  | 3#2 => .inr (.inr rfl)

theorem t1FieldsIllegal_iff (a : BitVec 9) (g : BitVec 5) (v : BitVec 2) :
    t1FieldsIllegal a g v = true ↔ a ≠ 0#9 ∨ v ≠ 0#2 ∨ 14 < g.toNat := by
  simp [t1FieldsIllegal, or_assoc]

/-- A READ or WRITE header whose fields pass R86 selects a register. -/
theorem exec_decodeT1_legal (o : PacketOp) (w : Word) (s : State)
    (h : t1FieldsIllegal (w.extractLsb' 18 9) (w.extractLsb' 13 5) (w.extractLsb' 11 2) = false) :
    ∃ r n, exec (decodeT1 o w) s = t1Step o r n s := by
  rw [← Bool.not_eq_true, t1FieldsIllegal_iff] at h
  simp only [not_or, not_not, ← Reg.ofAddr_eq_none] at h
  obtain ⟨ha, hv, hg⟩ := h
  obtain ⟨r, hr⟩ := Option.ne_none_iff_exists'.1 hg
  refine ⟨r, w.extractLsb' 0 11, ?_⟩
  cases o
  · simp [decodeT1, ha, hv, hr, exec_t1r]
  · simp [decodeT1, ha, hv, hr, exec_t1w]

/-- A READ or WRITE header whose fields fail a check of R86 is ILLEGAL. -/
theorem exec_decodeT1_illegal (o : PacketOp) (w : Word) (s : State)
    (h : t1FieldsIllegal (w.extractLsb' 18 9) (w.extractLsb' 13 5) (w.extractLsb' 11 2) = true) :
    ∃ x, exec (decodeT1 o w) s = illegalStep x s := by
  have hg : w.extractLsb' 18 9 = 0 ∧ w.extractLsb' 11 2 = 0 → Reg.ofAddr (w.extractLsb' 13 5) = none := by
    rintro ⟨ha, hv⟩
    simpa [t1FieldsIllegal, ha, hv, Reg.ofAddr_eq_none] using h
  unfold decodeT1
  by_cases hz : w.extractLsb' 18 9 = 0 ∧ w.extractLsb' 11 2 = 0
  · cases o <;> simp only [hz, hg hz] <;> exact ⟨_, rfl⟩
  · cases o <;> simp only [if_neg hz] <;> exact ⟨_, rfl⟩

/-! ## MalformedPacket (spec/30_encoding.md R97) -/

/-- The answer is a state in `Failed` with a MalformedPacket record. -/
def RaisesMalformed (r : Result) : Prop :=
  ∃ t e, r = .next t ∧ t.st = .failed ∧ t.err = some e ∧ e.kind = .malformedPacket

theorem raisesMalformed_raise_iff (s : State) (k : EventKind) (i : Info) (off : Nat) :
    RaisesMalformed (.next (s.raise k i off)) ↔ k = .malformedPacket := by
  simp [RaisesMalformed]

theorem not_raisesMalformed_of_running {t : State} (ht : t.st ≠ .failed) : ¬ RaisesMalformed (.next t) := by
  simp [RaisesMalformed, ht]

theorem raisesMalformed_illegalStep (w : Word) (s : State) : RaisesMalformed (illegalStep w s) :=
  (raisesMalformed_raise_iff _ _ _ _).2 rfl

/-- Entering a payload has errors of its own (R169), none of them MalformedPacket. -/
theorem not_raisesMalformed_headerPayload {s : State} (hs : s.st ≠ .failed) (n : Nat) (w : Word) (off : Nat) :
    ¬ RaisesMalformed (.next (headerPayload n w off s)) := by
  unfold headerPayload
  split
  · exact not_raisesMalformed_of_running hs
  · rcases enterData_cases n w off s with ⟨_, e⟩ | ⟨_, ⟨_, _, e⟩ | ⟨_, _, _, _, e⟩ | ⟨_, _, _, _, e⟩ | ⟨_, e⟩⟩ <;> rw [e]
    · simp [raisesMalformed_raise_iff]
    · simp [raisesMalformed_raise_iff]
    · simp [raisesMalformed_raise_iff]
    · exact not_raisesMalformed_of_running (by simp)
    · exact not_raisesMalformed_of_running (by simp)

section
variable {s : State} (hs : s.st ≠ .failed)
include hs

theorem not_raisesMalformed_t1Step (o : PacketOp) (r : Reg) (n : BitVec 11) : ¬ RaisesMalformed (t1Step o r n s) :=
  not_raisesMalformed_headerPayload (s := { s.readWord with actReg := some r, actOp := o }) hs _ _ _

/-- A Type-2 header needs an active register (R167). -/
theorem raisesMalformed_t2_iff (op : BitVec 2) (n : BitVec 27) :
    RaisesMalformed (exec (.t2 op n) s) ↔ s.actReg = none := by
  show RaisesMalformed (execT2 op n s) ↔ _
  unfold execT2
  split
  · exact iff_of_true (raisesMalformed_illegalStep _ s) ‹_›
  · exact iff_of_false (not_raisesMalformed_headerPayload (s := s.readWord) hs _ _ _) ‹_›

/-- A READ or WRITE header is MalformedPacket on exactly the checks of R86. -/
theorem raisesMalformed_decodeT1_iff (o : PacketOp) (w : Word) :
    RaisesMalformed (exec (decodeT1 o w) s) ↔
      w.extractLsb' 18 9 ≠ 0#9 ∨ w.extractLsb' 11 2 ≠ 0#2 ∨ 14 < (w.extractLsb' 13 5).toNat := by
  rw [← t1FieldsIllegal_iff]
  cases h : t1FieldsIllegal (w.extractLsb' 18 9) (w.extractLsb' 13 5) (w.extractLsb' 11 2) with
  | true =>
    obtain ⟨x, e⟩ := exec_decodeT1_illegal o w s h
    exact iff_of_true (e ▸ raisesMalformed_illegalStep x s) rfl
  | false =>
    obtain ⟨r, n, e⟩ := exec_decodeT1_legal o w s h
    exact iff_of_false (e ▸ not_raisesMalformed_t1Step hs o r n) (by simp)
end

/-! ## The rules of the packet framer -/

/-- Settles O6: a word of type 001 and op 00 is NOOP, whatever its other bits. -/
theorem noopChangesOnlyTheCursor : Obligations.NoopChangesOnlyTheCursor := by
  intro s hc hp hs hrem
  refine ⟨fun _ => rfl, fun ht ho => ?_⟩
  rw [step_control hc hp hs hrem, classify_noop ht ho]
  rfl

/-- Settles O10: a case split over the type and, for type 001, the op of the word. -/
theorem malformedPacketExactlyOnIllegalWords : Obligations.MalformedPacketExactlyOnIllegalWords := by
  intro s hc hp hs hrem w type op
  have hsf : s.st ≠ .failed := by simp [hs]
  rw [step_control hc hp hs hrem]
  change RaisesMalformed (exec (classify w) s) ↔ _
  by_cases h1 : type = 1#3
  · rcases t1Op_cases op with h | ⟨o, h⟩ | h
    · rw [classify_noop h1 h]
      exact iff_of_false (not_raisesMalformed_of_running (t := s.readWord) hsf) (by simp [h1, h])
    · rw [classify_t1 o h1 h, raisesMalformed_decodeT1_iff hsf]
      cases o <;> simp [h1, h, PacketOp.bits]
    · rw [classify_op11 h1 h]
      exact iff_of_true (raisesMalformed_illegalStep _ s) (by simp [h1, h])
  · by_cases h2 : type = 2#3
    · rw [classify_t2 h2, raisesMalformed_t2_iff hsf]
      simp [h2]
    · obtain ⟨x, e⟩ := exec_classify_otherType h1 h2 s
      exact iff_of_true (e ▸ raisesMalformed_illegalStep x s) (.inl ⟨h1, h2⟩)

end Sys2Proof.Machine
end

section
/-! SUPPORT. The accumulator as a linear map over GF(2): the step is linear in accumulator and bit together, a value that
fits in the accumulator acts as if it were xored in before zero bits, and zero bits keep a nonzero accumulator nonzero. -/

namespace Sys2Proof.Machine

/-! ## Linearity (spec/40_crc.md R110, R114) -/

/-- The step shifts, and xors the polynomial in when the bit leaving differs from the bit entering. -/
theorem crcStep_eq_xor (c : BitVec 16) (b : Bool) :
    crcStep c b = (c >>> 1) ^^^ (if c.getLsbD 0 ^^ b then 0xA001#16 else 0#16) := by
  unfold crcStep
  split <;> simp

/-- A step is linear in the accumulator and the bit together. -/
theorem crcStep_xor (c1 c2 : BitVec 16) (b1 b2 : Bool) :
    crcStep (c1 ^^^ c2) (b1 ^^ b2) = crcStep c1 b1 ^^^ crcStep c2 b2 := by
  have hbit : ((c1 ^^^ c2).getLsbD 0 ^^ (b1 ^^ b2)) = ((c1.getLsbD 0 ^^ b1) ^^ (c2.getLsbD 0 ^^ b2)) := by
    rw [BitVec.getLsbD_xor, Bool.xor_assoc, Bool.xor_assoc, Bool.xor_left_comm b1]
  have hpoly : ∀ x y : Bool, (if x ^^ y then 0xA001#16 else 0#16) =
      (if x then 0xA001#16 else 0#16) ^^^ (if y then 0xA001#16 else 0#16) := by decide
  simp only [crcStep_eq_xor, hbit, hpoly, BitVec.ushiftRight_xor_distrib]
  ac_rfl

/-- A run over the bits that `f` and `g` give position by position is linear. -/
theorem crcBits_map_xor (f g : Nat → Bool) (is : List Nat) (c1 c2 : BitVec 16) :
    crcBits (c1 ^^^ c2) (is.map fun i => f i ^^ g i) = crcBits c1 (is.map f) ^^^ crcBits c2 (is.map g) := by
  induction is generalizing c1 c2 with
  | nil => rfl
  | cons i is ih => simp only [List.map_cons, crcBits_cons, crcStep_xor, ih]

theorem crcBits_bitsLsbFirst_xor {n : Nat} (c1 c2 : BitVec 16) (v1 v2 : BitVec n) :
    crcBits (c1 ^^^ c2) (bitsLsbFirst (v1 ^^^ v2)) =
      crcBits c1 (bitsLsbFirst v1) ^^^ crcBits c2 (bitsLsbFirst v2) := by
  simp only [bitsLsbFirst, BitVec.getLsbD_xor, crcBits_map_xor]

/-! ## An accumulator against its own bits -/

/-- Shifting an accumulator's own bits in only moves it down: no step meets a bit that differs. -/
theorem crcBits_own_bits (c : BitVec 16) (n : Nat) : crcBits c ((List.range n).map c.getLsbD) = c >>> n := by
  induction n with
  | zero => simp
  | succ n ih =>
    rw [List.range_succ, List.map_append, crcBits_append, ih]
    simp [crcStep_eq_xor, BitVec.shiftRight_add]

/-- A value whose bits are those of an accumulator `d` with nothing above them acts as `d` xored in before zero bits. -/
theorem crcBits_eq_xor_zeros {n : Nat} (c d : BitVec 16) (v : BitVec n) (hlow : ∀ i < n, v.getLsbD i = d.getLsbD i)
    (hhigh : d >>> n = 0) : crcBits c (bitsLsbFirst v) = crcBits (c ^^^ d) (bitsLsbFirst 0#n) := by
  have hown : crcBits d (bitsLsbFirst v) = 0 := by
    rw [bitsLsbFirst, List.map_congr_left fun i hi => hlow i (List.mem_range.1 hi), crcBits_own_bits, hhigh]
  have h := crcBits_bitsLsbFirst_xor (c ^^^ d) d 0 v
  simpa [BitVec.xor_assoc, hown] using h

/-! ## Zero bits -/

theorem bitsLsbFirst_zero (n : Nat) : bitsLsbFirst 0#n = List.replicate n false := by
  simp [bitsLsbFirst]

/-- The polynomial's bit 15 is set, so a zero bit keeps a nonzero accumulator nonzero. -/
theorem crcStep_false_eq_zero_iff (c : BitVec 16) : crcStep c false = 0 ↔ c = 0 := by
  refine ⟨fun h => ?_, by rintro rfl; rfl⟩
  cases hbit : c.getLsbD 0 with
  | true =>
    have h15 := congrArg (·.getLsbD 15) h
    simp [crcStep_eq_xor, hbit] at h15
  | false =>
    have hshift : c >>> 1 = 0 := by
      rw [crcStep_eq_xor, hbit] at h
      simpa using h
    refine BitVec.eq_of_getLsbD_eq fun i _ => ?_
    cases i with
    | zero => exact hbit
    | succ i => simpa [Nat.add_comm] using congrArg (·.getLsbD i) hshift

theorem crcBits_zeros_eq_zero_iff (c : BitVec 16) (n : Nat) : crcBits c (List.replicate n false) = 0 ↔ c = 0 := by
  induction n generalizing c with
  | zero => rfl
  | succ n ih => rw [List.replicate_succ, crcBits_cons, ih, crcStep_false_eq_zero_iff]

/-! ## The residual of a value of 16 bits (R115) -/

theorem crcFold_zeros_eq_zero_iff (c : BitVec 16) : crcFold c 0#5 0#32 = 0 ↔ c = 0 := by
  rw [crcFold, bitsLsbFirst_zero, bitsLsbFirst_zero, crcBits_zeros_eq_zero_iff, crcBits_zeros_eq_zero_iff]

/-- The accumulator's own value settles to zero, and no other value of 16 bits does. -/
theorem crcFold_setWidth_eq_zero_iff (c x : BitVec 16) : crcFold c 0#5 (x.setWidth 32) = 0 ↔ x = c := by
  have hx : crcBits c (bitsLsbFirst (x.setWidth 32)) = crcBits (c ^^^ x) (bitsLsbFirst 0#32) :=
    crcBits_eq_xor_zeros c x _ (fun i hi => by simp [hi]) (BitVec.ushiftRight_eq_zero (by decide))
  rw [crcFold, hx, ← crcFold, crcFold_zeros_eq_zero_iff]
  exact BitVec.xor_eq_zero_iff.trans eq_comm

/-! ## Bytes (R113) -/

/-- The bits of a slice are the bits of the value from where the slice starts. -/
theorem bitsLsbFirst_extractLsb' {w : Nat} (v : BitVec w) (start n : Nat) :
    bitsLsbFirst (v.extractLsb' start n) = (List.range' start n).map v.getLsbD := by
  rw [bitsLsbFirst, List.range'_eq_map_range, List.map_map]
  exact List.map_congr_left fun i hi => by simp [List.mem_range.1 hi]

/-- The bits of a word are those of its four bytes, the least significant byte first. -/
theorem bitsLsbFirst_word (v : Word) :
    bitsLsbFirst v =
      [v.extractLsb' 0 8, v.extractLsb' 8 8, v.extractLsb' 16 8, v.extractLsb' 24 8].flatMap bitsLsbFirst := by
  simp only [List.flatMap_cons, List.flatMap_nil, bitsLsbFirst_extractLsb', List.append_nil, ← List.map_append]
  rfl

/-- A byte of the byte-wise update is the byte's eight bits shifted in. -/
theorem arcByte_eq_crcBits (c : BitVec 16) (b : Byte) : arcByte c b = crcBits c (bitsLsbFirst b) := by
  have hzero : ∀ c : BitVec 16, (if c.getLsbD 0 then (c >>> 1) ^^^ 0xA001#16 else c >>> 1) = crcStep c false := by
    simp [crcStep]
  have hhigh : b.setWidth 16 >>> 8 = 0 := by bv_omega
  rw [crcBits_eq_xor_zeros c (b.setWidth 16) b (fun i hi => by simp [show i < 16 by omega]) hhigh, arcByte]
  simp only [hzero]
  rfl

theorem arcBytes_eq_crcBits (c : BitVec 16) (bs : List Byte) : arcBytes c bs = crcBits c (bs.flatMap bitsLsbFirst) := by
  induction bs generalizing c with
  | nil => rfl
  | cons b bs ih => rw [List.flatMap_cons, crcBits_append, ← ih, ← arcByte_eq_crcBits]; rfl

/-! ## The rules of the CRC unit -/

/-- Settles O23: the value's bits and the address's bits are two linear runs, one after the other. -/
theorem foldIsLinear : Obligations.FoldIsLinear := by
  intro c1 c2 a1 a2 v1 v2
  simp only [crcFold, crcBits_bitsLsbFirst_xor]

/-- A zero of the fold, xored into the value, leaves the fold as it was. -/
theorem crcFold_xor_of_zero (c : BitVec 16) (v k : Word) (hk : crcFold 0 0#5 k = 0) :
    crcFold c 0#5 (v ^^^ k) = crcFold c 0#5 v := by
  have h := foldIsLinear c 0 0#5 0#5 v k
  rw [hk] at h
  simpa using h

/-- A word below 2^16 is settled by its 16 bits. -/
theorem crcFold_eq_zero_iff_of_lt (c : BitVec 16) (v : Word) (hv : v.toNat < 2 ^ 16) :
    crcFold c 0#5 v = 0 ↔ v = c.setWidth 32 := by
  obtain ⟨x, rfl⟩ : ∃ x : BitVec 16, v = x.setWidth 32 := ⟨v.setWidth 16, by bv_omega⟩
  rw [crcFold_setWidth_eq_zero_iff]
  exact ⟨fun h => h ▸ rfl, fun h => by bv_omega⟩

/-- Two words that agree from bit 16 up differ by a word below 2^16. -/
theorem xor_lt_of_shiftRight_eq {v w : Word} (h : v.toNat / 2 ^ 16 = w.toNat / 2 ^ 16) : (v ^^^ w).toNat < 2 ^ 16 := by
  have hdiv : (v ^^^ w).toNat / 2 ^ 16 = 0 := by rw [BitVec.toNat_xor, Nat.xor_div_two_pow, h, Nat.xor_self]
  omega

/-- R115's zero of the fold. -/
theorem crcFold_0x14003 : crcFold 0 0#5 0x14003#32 = 0 := by decide +kernel

/-- Settles O24: below 2^16 the residual is settled by the 16 bits; a zero with bit 16 as its highest differs from
0x14003 by a zero below 2^16, which is 0. -/
theorem zeroResidual : Obligations.ZeroResidual := by
  refine ⟨fun c => (crcFold_setWidth_eq_zero_iff c c).2 rfl, crcFold_eq_zero_iff_of_lt, fun c k hk => ?_,
    crcFold_0x14003, fun k hk hlt hzero => ?_⟩
  · exact (crcFold_xor_of_zero c _ k hk).trans ((crcFold_setWidth_eq_zero_iff c c).2 rfl)
  · by_cases hsmall : k.toNat < 2 ^ 16
    · exact hk ((crcFold_eq_zero_iff_of_lt 0 k hsmall).1 hzero)
    · have hdiff : (k ^^^ 0x14003#32).toNat < 2 ^ 16 :=
        xor_lt_of_shiftRight_eq (by simp only [BitVec.toNat_ofNat]; omega)
      have hdiffZero : k ^^^ 0x14003#32 = 0 :=
        (crcFold_eq_zero_iff_of_lt 0 _ hdiff).1 ((crcFold_xor_of_zero 0 k _ crcFold_0x14003).trans hzero)
      have hk' : k = 0x14003#32 := BitVec.xor_eq_zero_iff.1 hdiffZero
      exact absurd hlt (by simp [hk'])

/-- Settles O25: both sides shift in the same 32 bits, the least significant byte first. -/
theorem dataStepsAreByteWiseArc : Obligations.DataStepsAreByteWiseArc :=
  ⟨fun c v => by rw [arcBytes_eq_crcBits, ← bitsLsbFirst_word], by decide +kernel⟩

end Sys2Proof.Machine
end

section
/-! SUPPORT. The FAR codec: a word's fields as numbers, the slot of each block, and the increment as an encoding of
the fields its stages leave. -/

namespace Sys2Proof.Machine

/-! ## Decoding and encoding (spec/41_far_codec.md R130, R131) -/

section Fields
variable (w : Word)

theorem farDecode_bitOffset_toNat : (farDecode w).bitOffset.toNat = w.toNat % 2 ^ 9 := by
  simp [farDecode]

theorem farDecode_minor_toNat : (farDecode w).minor.toNat = w.toNat / 2 ^ 9 % 2 ^ 8 := by
  simp [farDecode, Nat.shiftRight_eq_div_pow]

theorem farDecode_major_toNat : (farDecode w).major.toNat = w.toNat / 2 ^ 17 % 2 ^ 8 := by
  simp [farDecode, Nat.shiftRight_eq_div_pow]

theorem farDecode_block_toNat : (farDecode w).block.toNat = w.toNat / 2 ^ 25 % 2 ^ 2 := by
  simp [farDecode, Nat.shiftRight_eq_div_pow]

end Fields

@[simp] theorem farEncode_unused (f : FarFields) : (farEncode f).extractLsb' 27 5 = 0#5 := by
  simp (disch := decide) only [farEncode, BitVec.extractLsb'_append_eq_of_le, Nat.reduceSub, BitVec.extractLsb'_eq_self]

@[simp] theorem farDecode_farEncode (f : FarFields) : farDecode (farEncode f) = f := by
  simp (disch := decide) only [farDecode, farEncode, BitVec.extractLsb'_append_eq_of_le,
    BitVec.extractLsb'_append_eq_of_add_le, Nat.reduceSub, BitVec.extractLsb'_eq_self]

/-- The round trip fixes the low 27 bits, and the others are 0. -/
theorem farEncode_toNat (f : FarFields) :
    (farEncode f).toNat =
      f.block.toNat * 2 ^ 25 + f.major.toNat * 2 ^ 17 + f.minor.toNat * 2 ^ 9 + f.bitOffset.toNat := by
  have hunused := congrArg BitVec.toNat (farEncode_unused f)
  rw [BitVec.extractLsb'_toNat, Nat.shiftRight_eq_div_pow, BitVec.toNat_zero] at hunused
  have hoffset := farDecode_bitOffset_toNat (farEncode f)
  have hminor := farDecode_minor_toNat (farEncode f)
  have hmajor := farDecode_major_toNat (farEncode f)
  have hblock := farDecode_block_toNat (farEncode f)
  rw [farDecode_farEncode] at hoffset hminor hmajor hblock
  omega

theorem farEncode_farDecode (w : Word) : farEncode (farDecode w) = w &&& 0x07FFFFFF#32 := by
  have hmask : (w &&& 0x07FFFFFF#32).toNat = w.toNat % 2 ^ 27 := Nat.and_two_pow_sub_one_eq_mod w.toNat 27
  refine BitVec.eq_of_toNat_eq ?_
  rw [hmask, farEncode_toNat, farDecode_bitOffset_toNat, farDecode_minor_toNat, farDecode_major_toNat,
    farDecode_block_toNat]
  omega

/-- Settles O26: the encoding's place of each field follows from the decoder's and the round trip. -/
theorem farCodecRoundTrip : Obligations.FarCodecRoundTrip :=
  ⟨fun w => ⟨farDecode_bitOffset_toNat w, farDecode_minor_toNat w, farDecode_major_toNat w, farDecode_block_toNat w⟩,
    farEncode_toNat, farDecode_farEncode, farEncode_farDecode⟩

/-! ## Regions and slots (spec/41_far_codec.md R134, R135, R137) -/

theorem slotOf_eq_map (c : ChipDescriptor) (w : Word) :
    slotOf c w = (regionOf c (farDecode w).block (farDecode w).major).map fun r =>
      { region := r, column := columnOf r (farDecode w).major.toNat, frame := (farDecode w).minor.toNat } := by
  simp only [slotOf]
  cases regionOf c (farDecode w).block (farDecode w).major <;> rfl

theorem regionOf_eq_map_slotOf (c : ChipDescriptor) (w : Word) :
    regionOf c (farDecode w).block (farDecode w).major = (slotOf c w).map (fun k => k.region) := by
  rw [slotOf_eq_map, Option.map_map]
  exact Option.map_id'.symm

section Slot
variable {c : ChipDescriptor} {w : Word}

theorem slotOf_frame {k : SlotKey} (h : slotOf c w = some k) : k.frame = w.toNat / 2 ^ 9 % 2 ^ 8 := by
  rw [slotOf_eq_map, Option.map_eq_some_iff] at h
  obtain ⟨r, _, rfl⟩ := h
  exact farDecode_minor_toNat w

theorem slotOf_of_regionOf {r : Region} (h : regionOf c (farDecode w).block (farDecode w).major = some r) :
    slotOf c w = some { region := r, column := columnOf r (w.toNat / 2 ^ 17 % 2 ^ 8),
                        frame := w.toNat / 2 ^ 9 % 2 ^ 8 } := by
  rw [slotOf_eq_map, h, Option.map_some, farDecode_major_toNat, farDecode_minor_toNat]

theorem slotOf_clbBlock (h : w.toNat / 2 ^ 25 % 2 ^ 2 = 0) {m n : Nat} {r : Region} (hr : clbBlockRegion c m = r)
    (hn : columnOf r m = n) (hm : w.toNat / 2 ^ 17 % 2 ^ 8 = m) :
    slotOf c w = some { region := r, column := n, frame := w.toNat / 2 ^ 9 % 2 ^ 8 } := by
  subst hm hn
  rw [← farDecode_block_toNat] at h
  exact slotOf_of_regionOf (by simp only [regionOf, h, farDecode_major_toNat, hr])

theorem slotOf_bramBlock (h : w.toNat / 2 ^ 25 % 2 ^ 2 = 1) :
    slotOf c w = some { region := .bram, column := w.toNat / 2 ^ 17 % 2 ^ 8, frame := w.toNat / 2 ^ 9 % 2 ^ 8 } := by
  rw [← farDecode_block_toNat] at h
  exact slotOf_of_regionOf (by simp only [regionOf, h])

theorem slotOf_bramIntBlock (h : w.toNat / 2 ^ 25 % 2 ^ 2 = 2) :
    slotOf c w = some { region := .bramInt, column := w.toNat / 2 ^ 17 % 2 ^ 8, frame := w.toNat / 2 ^ 9 % 2 ^ 8 } := by
  rw [← farDecode_block_toNat] at h
  exact slotOf_of_regionOf (by simp only [regionOf, h])

theorem slotOf_blockThree (h : w.toNat / 2 ^ 25 % 2 ^ 2 = 3) : slotOf c w = none := by
  rw [← farDecode_block_toNat] at h
  rw [slotOf_eq_map, (regionOf_eq_none c _ _).2 (BitVec.eq_of_toNat_eq h), Option.map_none]

end Slot

/-- A major of no other region is a CLB column's. -/
theorem clbBlockRegion_clb (c : ChipDescriptor) {major : Nat} (hge : 3 ≤ major)
    (hioi : major ≠ c.columnCount.clb + 3)
    (hiob : major ≠ c.columnCount.clb + 4) : clbBlockRegion c major = .clb := by
  rw [clbBlockRegion, if_neg (by omega), if_neg (by omega), if_neg (by omega)]

/-- Settles O27: a case per block, and in the CLB block a case per region of the major. -/
theorem slotOfAFarWord : Obligations.SlotOfAFarWord := by
  intro c w block major minor clb is
  refine ⟨fun hb => ?_, slotOf_bramBlock, slotOf_bramIntBlock, slotOf_blockThree, regionOf_eq_map_slotOf c w,
    fun k hk => ?_⟩
  · have hclb : 3 ≤ major → major ≠ clb + 3 → major ≠ clb + 4 → is .clb (major - 3) :=
      fun hge hioi hiob => slotOf_clbBlock hb (clbBlockRegion_clb c hge hioi hiob) rfl rfl
    refine ⟨slotOf_clbBlock hb rfl rfl, slotOf_clbBlock hb (by simp [clbBlockRegion]) rfl,
      slotOf_clbBlock hb (by simp [clbBlockRegion]) rfl,
      slotOf_clbBlock hb (by simp [clbBlockRegion, clb]) (by simp [columnOf]),
      slotOf_clbBlock hb (by simp [clbBlockRegion, clb]) (by simp [columnOf]), hclb, fun h k hk => ?_⟩
    obtain rfl := Option.some.inj (hk.symm.trans (hclb (by omega) (by omega) (by omega)))
    have hcolumn : ¬ major - 3 < clb := by omega
    exact Bool.eq_false_iff.2 fun hg => hcolumn ((inGeometry_iff c _).1 hg).1
  · rw [inGeometry_iff, slotOf_frame hk]

/-! ## The increment (spec/41_far_codec.md R141, R145, R146) -/

/-- The conditions on which a major's carry rolls over into the block. -/
abbrev MajorRollsOver (c : ChipDescriptor) (r : Region) (major : Nat) : Prop :=
  (r = .iob ∧ major + 1 = c.columnCount.clb + 5) ∨ (r = .bram ∧ major + 1 = c.columnCount.bram)

/-- The fields after the major stage, in the region `r` of the word before. -/
def FarFields.incMajor (c : ChipDescriptor) (r : Region) (f : FarFields) : FarFields :=
  if MajorRollsOver c r f.major.toNat then { f with block := f.block + 1, major := 0, minor := 0 }
  else { f with major := f.major + 1, minor := 0 }

/-- The fields after the minor stage, in the region `r` of the word before. -/
def FarFields.incMinor (c : ChipDescriptor) (r : Region) (f : FarFields) : FarFields :=
  if f.minor.toNat + 1 = c.frameCount.get r then f.incMajor c r else { f with minor := f.minor + 1 }

theorem farIncMinor_eq_map (c : ChipDescriptor) (f : FarFields) :
    farIncMinor c f = (regionOf c f.block f.major).map fun r => farEncode (f.incMinor c r) := by
  unfold farIncMinor FarFields.incMinor FarFields.incMajor
  cases regionOf c f.block f.major with
  | none => rfl
  | some r => simp only [Option.map_some, apply_ite farEncode, apply_ite some]

theorem farInc_minor (c : ChipDescriptor) (w : Word) : farInc .minor c w = farIncMinor c (farDecode w) := rfl

section Stages
variable {c : ChipDescriptor} {r : Region} {f : FarFields}

@[simp] theorem FarFields.incMinor_bitOffset : (f.incMinor c r).bitOffset = f.bitOffset := by
  unfold FarFields.incMinor FarFields.incMajor
  split
  · split <;> rfl
  · rfl

theorem FarFields.incMinor_of_no_carry (h : f.minor.toNat + 1 ≠ c.frameCount.get r) :
    f.incMinor c r = { f with minor := f.minor + 1 } := if_neg h

theorem FarFields.incMinor_of_carry (h : f.minor.toNat + 1 = c.frameCount.get r) :
    f.incMinor c r = f.incMajor c r := if_pos h

@[simp] theorem FarFields.incMajor_minor : (f.incMajor c r).minor = 0 := by
  unfold FarFields.incMajor
  split <;> rfl

theorem FarFields.incMajor_of_rollover (h : MajorRollsOver c r f.major.toNat) :
    f.incMajor c r = { f with block := f.block + 1, major := 0, minor := 0 } := if_pos h

theorem FarFields.incMajor_of_no_rollover (h : ¬ MajorRollsOver c r f.major.toNat) :
    f.incMajor c r = { f with major := f.major + 1, minor := 0 } := if_neg h

end Stages

section Bit
variable {c : ChipDescriptor} {w : Word}

theorem farInc_bit_of_carry (h : (farDecode w).bitOffset.toNat + 1 = c.frameWordLength) :
    farInc .bit c w = farIncMinor c { farDecode w with bitOffset := 0 } := if_pos h

theorem farInc_bit_of_no_carry (h : (farDecode w).bitOffset.toNat + 1 ≠ c.frameWordLength) :
    farInc .bit c w = some (farEncode { farDecode w with bitOffset := (farDecode w).bitOffset + 1 }) := if_neg h

end Bit

/-- Settles O28: both entries end in the minor stage, with the bit offset kept or 0, and its outcomes are cases. -/
theorem farIncrementIsTheOdometer : Obligations.FarIncrementIsTheOdometer := by
  intro c w f
  refine ⟨fun hne => ⟨_, farInc_bit_of_no_carry hne, ?_⟩, fun r hr => ?_⟩
  · simp [f]
  · intro minorStage
    have hstage : ∀ o, ∃ w', farIncMinor c { f with bitOffset := o } = some w' ∧ minorStage o w' := fun o => by
      have hinc := farIncMinor_eq_map c { f with bitOffset := o }
      rw [hr] at hinc
      refine ⟨_, hinc, farEncode_unused _, ?_, fun hne => ?_, fun heq => ?_⟩
      · simp
      · simp [FarFields.incMinor_of_no_carry, hne]
      · rw [farDecode_farEncode, FarFields.incMinor_of_carry (f := { f with bitOffset := o }) heq]
        refine ⟨FarFields.incMajor_minor, fun hroll => ?_, fun hroll => ?_⟩
        · simp [FarFields.incMajor_of_rollover, hroll]
        · simp [FarFields.incMajor_of_no_rollover, hroll]
    exact ⟨farInc_minor c w ▸ hstage f.bitOffset, fun heq => farInc_bit_of_carry heq ▸ hstage 0⟩

/-- What an increment answers is an encoding. -/
theorem farInc_eq_encode {e : FrameStepEntry} {c : ChipDescriptor} {w w' : Word} (h : farInc e c w = some w') :
    ∃ f, w' = farEncode f := by
  have hminor : ∀ f, farIncMinor c f = some w' → ∃ f, w' = farEncode f := fun f hf => by
    rw [farIncMinor_eq_map, Option.map_eq_some_iff] at hf
    obtain ⟨r, _, rfl⟩ := hf
    exact ⟨_, rfl⟩
  cases e with
  | minor => exact hminor _ h
  | bit =>
    by_cases hcarry : (farDecode w).bitOffset.toNat + 1 = c.frameWordLength
    · exact hminor _ (farInc_bit_of_carry hcarry ▸ h)
    · rw [farInc_bit_of_no_carry hcarry, Option.some.injEq] at h
      exact ⟨_, h.symm⟩

/-- Settles O29: only the minor stage looks a region up, and BIT reaches it on a carry. -/
theorem farIncrementFailsOnlyOnBlockThree : Obligations.FarIncrementFailsOnlyOnBlockThree := by
  intro c w
  refine ⟨by rw [farInc_minor, farIncMinor_eq_none], ?_, fun e w' h => ?_⟩
  · by_cases hcarry : (farDecode w).bitOffset.toNat + 1 = c.frameWordLength
    · rw [farInc_bit_of_carry hcarry, farIncMinor_eq_none, and_iff_left hcarry]
    · simp [farInc_bit_of_no_carry hcarry, hcarry]
  · obtain ⟨f, rfl⟩ := farInc_eq_encode h
    exact farEncode_unused f

end Sys2Proof.Machine
end

section
/-! SUPPORT. The payload a header enters (spec/42_packet_framer.md R169), said once for the Type-1 and the Type-2
header, and the rules of the headers. -/

namespace Sys2Proof.Machine

/-! ## enter_data, an equation per case (spec/60_exceptions.md R280) -/

section
variable {n : Nat} {w : Word} {off : Nat} {s : State}

theorem enterData_truncated (h : s.remaining < 4 * payloadNeed s.actReg n) :
    enterData n w off s = s.raise .truncatedInput (.header w) off :=
  if_pos h

section
variable (h : 4 * payloadNeed s.actReg n ≤ s.remaining)
include h

theorem enterData_register (hf : s.actReg ≠ some .fdri) : enterData n w off s = s.beginPayload n := by
  rw [enterData, if_neg (Nat.not_lt.2 h), if_neg hf]

variable (hf : s.actReg = some .fdri)
include hf

theorem enterData_noChip (hc : s.chip = none) : enterData n w off s = s.raise .noChipResolved (.header w) off := by
  rw [enterData, if_neg (Nat.not_lt.2 h), if_pos hf, hc]

variable {c : ChipDescriptor} (hc : s.chip = some c)
include hc

theorem enterData_partFrame (hm : n % c.frameWordLength ≠ 0) :
    enterData n w off s = s.raise .inconsistentFrameLength (.header w) off := by
  simp only [enterData, if_neg (Nat.not_lt.2 h), if_pos hf, hc, if_pos hm]

theorem enterData_burst (hm : n % c.frameWordLength = 0) :
    enterData n w off s = (s.beginBurst n).beginPayload n := by
  simp only [enterData, if_neg (Nat.not_lt.2 h), if_pos hf, hc, hm, ne_eq, not_true, if_false]
end
end

/-! ## What a header leaves -/

theorem Selected.remaining {s s1 : State} (h : Selected s s1) : s1.remaining = s.remaining - 4 := by
  cases h <;> exact State.remaining_readWord s

/-- The answer `a` of a header with count `n`, read in `s`, that has made `r` the active register of `s1`. -/
def EntersPayload (r : Reg) {m : Nat} (n : BitVec m) (s s1 : State) (a : Result) : Prop :=
  let need := n.toNat + if r = .fdri then 1 else 0
  (n = 0 → a = .next s1) ∧
  (n ≠ 0 → r ≠ .fdri → 4 * need ≤ s.remaining - 4 → a = .next (s1.beginPayload n.toNat)) ∧
  (∀ c, n ≠ 0 → r = .fdri → 4 * need ≤ s.remaining - 4 → s.chip = some c → n.toNat % c.frameWordLength = 0 →
    a = .next ((s1.beginBurst n.toNat).beginPayload n.toNat)) ∧
  (n ≠ 0 → s.remaining - 4 < 4 * need → ∃ info, a = .next (s1.raise .truncatedInput info s.pos)) ∧
  (n ≠ 0 → r = .fdri → 4 * need ≤ s.remaining - 4 → s.chip = none → ∃ info, a = .next (s1.raise .noChipResolved info s.pos)) ∧
  (∀ c, n ≠ 0 → r = .fdri → 4 * need ≤ s.remaining - 4 → s.chip = some c → n.toNat % c.frameWordLength ≠ 0 →
    ∃ info, a = .next (s1.raise .inconsistentFrameLength info s.pos))

theorem Selected.entersPayload {s s1 : State} {r : Reg} (h : Selected s s1) (hr : s1.actReg = some r) {m : Nat}
    (n : BitVec m) (w : Word) : EntersPayload r n s s1 (.next (headerPayload n.toNat w s.pos s1)) := by
  have enter (hn : n ≠ 0) : headerPayload n.toNat w s.pos s1 = enterData n.toNat w s.pos s1 :=
    if_neg (by simpa [← BitVec.toNat_inj] using hn)
  have hneed : payloadNeed s1.actReg n.toNat = n.toNat + if r = .fdri then 1 else 0 := by simp [payloadNeed, hr]
  unfold EntersPayload
  rw [← hneed, ← h.remaining, ← h.chip]
  refine ⟨fun h0 => ?_, fun hn hf hrem => ?_, fun c hn hf hrem hc hm => ?_, fun hn hrem => ⟨.header w, ?_⟩,
    fun hn hf hrem hc => ⟨.header w, ?_⟩, fun c hn hf hrem hc hm => ⟨.header w, ?_⟩⟩
  · simp [h0, headerPayload]
  · rw [enter hn, enterData_register hrem (by simpa [hr] using hf)]
  · rw [enter hn, enterData_burst hrem (hf ▸ hr) hc hm]
  · rw [enter hn, enterData_truncated hrem]
  · rw [enter hn, enterData_noChip hrem (hf ▸ hr) hc]
  · rw [enter hn, enterData_partFrame hrem (hf ▸ hr) hc hm]

/-! ## The rules of the headers -/

/-- Settles O7: the header makes its register active, then enters the payload. -/
theorem type1HeaderSelectsAndEnters : Obligations.Type1HeaderSelectsAndEnters := by
  intro o r n s i s1 need failed
  have hi : exec i s = t1Step o r n s := by
    cases o
    · exact exec_t1r r n s
    · exact exec_t1w r n s
  rw [hi]
  exact (Selected.select r o).entersPayload rfl n (t1Header o r n)

/-- Settles O8: with no active register the header is ILLEGAL, else it enters the payload of that register. -/
theorem type2HeaderFeedsTheActiveRegister : Obligations.Type2HeaderFeedsTheActiveRegister := by
  intro op n s s1 failed
  refine ⟨fun hr => ⟨.header (t2Header op n), if_pos hr⟩, fun r hr => ?_⟩
  have hexec : exec (.t2 op n) s = .next (headerPayload n.toNat (t2Header op n) s.pos s.readWord) := if_neg (by simp [hr])
  rw [hexec]
  exact Selected.same.entersPayload hr n (t2Header op n)

/-- Settles O9: each of the nine rows is an `illegalStep` on its own word. -/
theorem illegalHeadersRaiseMalformedPacket : Obligations.IllegalHeadersRaiseMalformedPacket := by
  intro i s hi
  obtain ⟨w, hw⟩ : ∃ w, exec i s = illegalStep w s := by
    rcases hi with ⟨_, rfl⟩ | ⟨_, _, _, _, rfl⟩ | ⟨_, _, _, _, rfl⟩ | ⟨_, rfl⟩ | ⟨_, rfl⟩ | ⟨_, rfl⟩ | ⟨_, rfl⟩ | ⟨_, rfl⟩ |
      ⟨_, rfl⟩ <;> exact ⟨_, rfl⟩
  exact ⟨.header w, hw⟩

end Sys2Proof.Machine
end

section
/-! SUPPORT. The pins are read by `step` alone: each meaning commutes with other pin levels put in place, because every
branch it takes looks at other elements of the state. -/

namespace Sys2Proof.Machine

/-- The state with the pins at the levels `p`. -/
def State.withPins (p : Pins) (s : State) : State := { s with pins := p }

/-- Two parts of a step that commute with a change `g` of the state that keeps `st` do so one after the other. -/
theorem thenStep_mapNext {g : State → State} (hg : ∀ u, (g u).st = u.st) {r r' : Result} {k k' : State → Result}
    (hr : r' = mapNext g r) (hk : ∀ u, k' (g u) = mapNext g (k u)) :
    thenStep r' k' = mapNext g (thenStep r k) := by
  subst hr
  cases r with
  | fault | refused => rfl
  | next u => by_cases hu : u.st = .failed <;> simp [thenStep, hg, hu, hk]

section
variable (p : Pins) (s : State)

@[simp] theorem State.withPins_st : (s.withPins p).st = s.st := rfl
@[simp] theorem State.withPins_params : (s.withPins p).params = s.params := rfl
@[simp] theorem State.withPins_regs : (s.withPins p).regs = s.regs := rfl
@[simp] theorem State.withPins_chip : (s.withPins p).chip = s.chip := rfl
@[simp] theorem State.withPins_store : (s.withPins p).store = s.store := rfl
@[simp] theorem State.withPins_remaining : (s.withPins p).remaining = s.remaining := rfl
@[simp] theorem State.withPins_context : (s.withPins p).context = s.context := rfl

/-! ## Operations that answer a state -/

theorem State.warn_withPins (k : EventKind) (i : Info) (off : Nat) :
    (s.withPins p).warn k i off = (s.warn k i off).withPins p := by
  unfold State.warn
  rw [apply_ite (State.withPins p)]
  rfl

theorem flrCheck_withPins (c : ChipDescriptor) : flrCheck c (s.withPins p) = (flrCheck c s).withPins p := by
  unfold flrCheck
  rw [apply_ite (State.withPins p), ← State.warn_withPins]
  rfl

theorem endFrame_withPins (c : ChipDescriptor) : endFrame c (s.withPins p) = (endFrame c s).withPins p := by
  simp only [endFrame, State.withPins_params, State.withPins_regs]
  split <;> rfl

theorem enterData_withPins (n : Nat) (w : Word) (off : Nat) :
    enterData n w off (s.withPins p) = (enterData n w off s).withPins p := by
  rcases enterData_cases n w off s with ⟨h, e⟩ | ⟨h, ⟨hf, hc, e⟩ | ⟨c, hf, hc, hm, e⟩ | ⟨c, hf, hc, hm, e⟩ | ⟨hf, e⟩⟩ <;>
    rw [e]
  · exact enterData_truncated (s := s.withPins p) h
  · exact enterData_noChip (s := s.withPins p) h hf hc
  · exact enterData_partFrame (s := s.withPins p) h hf hc hm
  · exact enterData_burst (s := s.withPins p) h hf hc hm
  · exact enterData_register (s := s.withPins p) h hf

theorem headerPayload_withPins (n : Nat) (w : Word) (off : Nat) :
    headerPayload n w off (s.withPins p) = (headerPayload n w off s).withPins p := by
  unfold headerPayload
  rw [apply_ite (State.withPins p), ← enterData_withPins]

/-! ## Hooks and meanings -/

theorem captureInto_withPins (c : ChipDescriptor) (k : SlotKey) (a : Frame) (off : Nat) :
    captureInto c k a off (s.withPins p) = mapNext (State.withPins p) (captureInto c k a off s) := by
  simp only [captureInto, State.withPins_store, State.warn_withPins]
  split
  · rfl
  · split <;> rfl

theorem capture_withPins (frame : Option Frame) (far : Word) (off : Nat) :
    capture frame far off (s.withPins p) = mapNext (State.withPins p) (capture frame far off s) := by
  simp only [capture, State.withPins_chip, captureInto_withPins]
  repeat' split
  all_goals rfl

theorem dispatch_withPins (code : Word) :
    dispatch code (s.withPins p) = mapNext (State.withPins p) (dispatch code s) := by
  unfold dispatch
  split
  case h_3 => exact capture_withPins p s _ _ _
  all_goals rfl

theorem residualCheck_withPins : residualCheck (s.withPins p) = mapNext (State.withPins p) (residualCheck s) := by
  unfold residualCheck
  rw [apply_ite (mapNext _), mapNext_next, ← State.warn_withPins]
  rfl

theorem resolveChip_withPins (v : Word) :
    resolveChip v (s.withPins p) = mapNext (State.withPins p) (resolveChip v s) := by
  simp only [resolveChip, State.withPins_params, State.withPins_chip]
  split
  · rfl
  · rename_i c _
    split
    · split <;> rfl
    · exact congrArg Host.Outcome.next (flrCheck_withPins p { s with chip := some c, store := some (allocate c) } c)

theorem hookedWrite_withPins {hook hook' : State → Result} (r : Reg) (v : Word)
    (hk : hook' ((s.payloadWrite r v).withPins p) = mapNext (State.withPins p) (hook (s.payloadWrite r v))) :
    hookedWrite r v hook' (s.withPins p) = mapNext (State.withPins p) (hookedWrite r v hook s) :=
  thenStep_mapNext (g := State.withPins p) (fun _ => rfl) hk fun _ => rfl

theorem beginFrame_withPins : beginFrame (s.withPins p) = mapNext (State.withPins p) (beginFrame s) := by
  refine thenStep_mapNext (g := State.withPins p) (fun _ => rfl) ?_ fun _ => rfl
  rw [apply_ite (mapNext _), ← capture_withPins]
  rfl

theorem fdriStep_withPins (c : ChipDescriptor) (v : Word) :
    fdriStep c v (s.withPins p) = mapNext (State.withPins p) (fdriStep c v s) := by
  refine thenStep_mapNext (g := State.withPins p) (fun _ => rfl) ?_ fun u =>
    thenStep_mapNext (g := State.withPins p) (fun _ => rfl) ?_ fun _ => rfl
  · rw [apply_ite (mapNext _), ← beginFrame_withPins]
    rfl
  · rw [mapNext_next, apply_ite (State.withPins p), ← endFrame_withPins]
    rfl

theorem execDataFdri_withPins (v : Word) :
    execDataFdri v (s.withPins p) = mapNext (State.withPins p) (execDataFdri v s) := by
  simp only [execDataFdri, State.withPins_chip]
  split
  · rfl
  · exact fdriStep_withPins p s _ v

theorem t1Step_withPins (o : PacketOp) (r : Reg) (n : BitVec 11) :
    t1Step o r n (s.withPins p) = mapNext (State.withPins p) (t1Step o r n s) :=
  congrArg Host.Outcome.next (headerPayload_withPins p { s.readWord with actReg := some r, actOp := o } _ _ _)

theorem execT2_withPins (op : BitVec 2) (n : BitVec 27) :
    execT2 op n (s.withPins p) = mapNext (State.withPins p) (execT2 op n s) := by
  unfold execT2
  rw [apply_ite (mapNext _), mapNext_next, ← headerPayload_withPins]
  rfl

theorem exec_withPins (i : Instr) : exec i (s.withPins p) = mapNext (State.withPins p) (exec i s) := by
  cases i with
  | t1wCrc n | t1wFar n | t1wFdri n | t1wFdro n | t1wCmd n | t1wCtl n | t1wMask n | t1wStat n | t1wLout n | t1wCor n
  | t1wMfwr n | t1wFlr n | t1wKey n | t1wCbc n | t1wIdcode n => exact t1Step_withPins p s .write _ n
  | t1rCrc n | t1rFar n | t1rFdri n | t1rFdro n | t1rCmd n | t1rCtl n | t1rMask n | t1rStat n | t1rLout n | t1rCor n
  | t1rMfwr n | t1rFlr n | t1rKey n | t1rCbc n | t1rIdcode n => exact t1Step_withPins p s .read _ n
  | t2 op n => exact execT2_withPins p s op n
  | dataCrc v => exact hookedWrite_withPins p s .crc v (residualCheck_withPins p _)
  | dataFar v => exact hookedWrite_withPins p s .far v (dispatch_withPins p _ _)
  | dataCmd v => exact hookedWrite_withPins p s .cmd v (dispatch_withPins p _ v)
  | dataIdcode v => exact hookedWrite_withPins p s .idcode v (resolveChip_withPins p _ v)
  | dataFdri v => exact execDataFdri_withPins p s v
  | cmdMfwr => exact capture_withPins p s _ _ _
  | _ => rfl

/-! ## A step -/

theorem wordStep_withPins : wordStep (s.withPins p) = mapNext (State.withPins p) (wordStep s) := by
  by_cases hrem : s.remaining < 4
  · rw [wordStep, wordStep, fetch_end hrem, fetch_end (s := s.withPins p) hrem, State.atEndOfInput, State.atEndOfInput,
      State.withPins_st]
    cases s.st <;> rfl
  · cases hc : s.context with
    | none => simp [wordStep, State.fetch, hrem, hc, mapNext]
    | some c =>
      rw [wordStep, wordStep, fetch_word (Nat.le_of_not_lt hrem) hc, fetch_word (s := s.withPins p) (Nat.le_of_not_lt hrem) hc]
      exact exec_withPins p s _
end

end Sys2Proof.Machine
end

section
/-! SUPPORT. The session: the scan, the end of input, and what `start` and `rst` do in each state. -/

namespace Sys2Proof.Machine

/-- A step in `Unsynced` with a word left compares it with the sync word. -/
theorem step_unsynced {s : State} (hc : chipTableOk s.params.chips = true) (hp : s.Stepping) (hs : s.st = .unsynced)
    (hrem : 4 ≤ s.remaining) :
    step s = exec (if s.input.readWord s.pos = syncWord then .sync else .scan (s.input.readWord s.pos)) s := by
  obtain ⟨hrst, hstep⟩ := hp
  have hctx : s.context = some .unsynced := by simp [State.context, hs]
  rw [step_running hc hrst hstep (.inl hs), wordStep, fetch_word hrem hctx, decodeWord]

/-- Outside `Idle` and `rst`, a step that reads no word changes nothing. -/
theorem step_stays {s : State} (hc : chipTableOk s.params.chips = true) (hr : s.pins.rst = false) (hi : s.st ≠ .idle)
    (hn : ¬ (s.Running ∧ s.pins.step = true)) : step s = .next s := by
  cases hst : s.st with
  | idle => exact absurd hst hi
  | done | failed => exact step_terminal hc hr (by simp [hst])
  | unsynced | waitingControl | waitingData =>
    have hstep : s.pins.step = false := by simpa [State.Running, hst] using hn
    simp [step, hc, hr, hst, hstep]

/-- Outside `Idle`, with `rst` released before and after, a step looks at the level of `step` and at no other pin. -/
theorem step_withPins {s : State} {p : Pins} (hc : chipTableOk s.params.chips = true) (hr : s.pins.rst = false)
    (hi : s.st ≠ .idle) (hpr : p.rst = false) (hps : p.step = s.pins.step) :
    step (s.withPins p) = mapNext (State.withPins p) (step s) := by
  by_cases hrun : s.Running ∧ s.pins.step = true
  · obtain ⟨hrun, hs⟩ := hrun
    rw [step_running hc hr hs hrun, step_running (s := s.withPins p) hc hpr (hps.trans hs) hrun, wordStep_withPins]
  · have hrun' : ¬ (s.Running ∧ p.step = true) := hps ▸ hrun
    rw [step_stays hc hr hi hrun, step_stays (s := s.withPins p) hc hpr hi hrun', mapNext_next]

/-! ## The rules of the session -/

/-- Settles O5: the two rows are their meanings, and a step runs one of them. -/
theorem scanEndsAtTheSyncWord : Obligations.ScanEndsAtTheSyncWord := by
  intro s hc hp hs hrem
  refine ⟨rfl, fun _ => rfl, ?_⟩
  rw [step_unsynced hc hp hs hrem, syncWord, ← hs]
  split <;> rfl

/-- Settles O33: with no word left a step is `desync` in `Unsynced` and `endSession` in `WaitingControl`. -/
theorem endOfInputEndsTheSession : Obligations.EndOfInputEndsTheSession := by
  intro s hc ⟨hrst, hstep⟩ hrem
  refine ⟨fun hs => ⟨.none, ?_⟩, fun hs => ?_⟩
  · have hend : s.atEndOfInput = .noWord s.desync := by rw [State.atEndOfInput, hs]
    rw [step_running hc hrst hstep (.inl hs), wordStep, fetch_end hrem, hend, ← hs]
    rfl
  · have hend : s.atEndOfInput = .noWord s.endSession := by rw [State.atEndOfInput, hs]
    rw [step_running hc hrst hstep (.inr (.inl hs)), wordStep, fetch_end hrem, hend]
    rfl

/-- Settles O32: `start` decides a step in `Idle`, and outside it is a pin other than `rst` and `step`. -/
theorem startActsInIdleOnly : Obligations.StartActsInIdleOnly := by
  intro s hc hr
  refine ⟨fun hs hp => ?_, fun hs hp => ?_, fun b t hi ht => ?_⟩
  · rw [step_idle hc hr hs, if_pos hp]
    rfl
  · rw [step_idle hc hr hs, if_neg (by simp [hp])]
  · have hstep := step_withPins (p := { s.pins with start := b }) hc hr hi hr rfl
    rw [ht] at hstep
    exact hstep

/-- Settles O34: `step` acts in no terminal state, and `rst` is a step of its own. -/
theorem onlyResetLeavesATerminalState : Obligations.OnlyResetLeavesATerminalState :=
  fun _ hc => ⟨fun ht hr => step_terminal hc hr ht, fun hr _ _ => step_rst hc hr⟩

end Sys2Proof.Machine
end

section
/-! SUPPORT. The payload words of the registers but FDRI, and the autoCRC word: what a hook answers is counted unless it
failed; an equation per case for each hook; and the rules of the register writes. -/

namespace Sys2Proof.Machine

/-! ## The write and the count (spec/43_register_writes.md R180, R221) -/

section
variable {s : State} {r : Reg} {v : Word}

theorem State.payloadWrite_eq_of_ne_lout (hr : r ≠ .lout) :
    s.payloadWrite r v = { s with pos := s.pos + 4, crc := crcFold s.crc r.addr v, regs := s.regs.write v r } := by
  rw [← crcUpdate_of_ne _ _ _ hr]
  rfl

theorem State.payloadWrite_lout :
    s.payloadWrite .lout v = { s with pos := s.pos + 4, regs := { s.regs with lout := v } } := by
  rw [State.payloadWrite, State.foldCrc, crcUpdate_lout]
  rfl

theorem State.readReg_payloadWrite_same (hr : r ≠ .crc) : (s.payloadWrite r v).readReg r = v :=
  State.storeReg_read_same _ r v hr

/-- The fold shows in the register at address 0 alone (R23). -/
theorem State.readReg_payloadWrite_other {r' : Reg} (hne : r' ≠ r) (hcrc : r' ≠ .crc) :
    (s.payloadWrite r v).readReg r' = s.readReg r' := by
  rw [State.payloadWrite, State.storeReg_read_other _ r r' v hne]
  cases r' with
  | crc => contradiction
  | far | fdri | fdro | cmd | ctl | mask | stat | lout | cor | mfwr | flr | key | cbc | idcode => rfl

@[simp] theorem State.readReg_finishPayload : s.finishPayload.readReg r = s.readReg r := by
  cases r <;> rfl

/-- The state with one word of its payload counted: the word is the last one when `budget` is 1. -/
theorem State.finishPayload_eq (hs : s.st = .waitingData) (hb : 0 < s.budget) :
    s.finishPayload =
      { s with budget := s.budget - 1, st := if s.budget = 1 then .waitingControl else .waitingData } := by
  have hlast : s.budget - 1 = 0 ↔ s.budget = 1 := by omega
  simp only [State.finishPayload, hlast, hs]

variable {s1 : State} (hw : s.payloadWrite r v = s1)
include hw

theorem plainWrite_counted (hs : s1.st = .waitingData) (hb : 0 < s1.budget) :
    plainWrite r v s =
      .next { s1 with budget := s1.budget - 1, st := if s1.budget = 1 then .waitingControl else .waitingData } := by
  rw [plainWrite, hw, State.finishPayload_eq hs hb]

variable {hook : State → Result} {u : State}

theorem hookedWrite_counted (hu : hook s1 = .next u) (hs : u.st = .waitingData) (hb : 0 < u.budget) :
    hookedWrite r v hook s =
      .next { u with budget := u.budget - 1, st := if u.budget = 1 then .waitingControl else .waitingData } := by
  rw [hookedWrite, hw, hu, thenStep_next (by simp [hs]), State.finishPayload_eq hs hb]

/-- An error of the hook leaves `budget` as it was (spec/60_exceptions.md R262). -/
theorem hookedWrite_raised {k : EventKind} {i : Info} {off : Nat} (hu : hook s1 = .next (u.raise k i off))
    (hs : u.st = .waitingData) :
    hookedWrite r v hook s =
      .next
        { u with
          st := .failed
          err := some { kind := k, code := k.code, state := .waitingData, offset := off, info := i } } := by
  rw [hookedWrite, hw, hu, thenStep_ended rfl, State.raise, hs]
end

/-! ## Warnings (spec/60_exceptions.md R271) -/

section
variable {s : State} {k : EventKind} {i : Info} {off : Nat}

theorem State.warn_lenient (hs : s.params.strict = false) : s.warn k i off = s.log k i off :=
  if_neg (by simp [hs])

theorem State.warn_strict (hs : s.params.strict = true) (hk : k.promotable = true) : s.warn k i off = s.raise k i off :=
  if_pos (by simp [hs, hk])
end

/-! ## The hooks, an equation per case

`off` is the offset of the word just read, which the cursor stands behind. -/

section
variable {s : State}

theorem residualCheck_zero (hc : s.crc = 0) : residualCheck s = .next s :=
  if_neg (not_not.2 hc)

section
variable {off : Nat} (hoff : s.pos = off + 4)
include hoff

theorem State.wordOffset_eq : s.wordOffset = off := by
  rw [State.wordOffset, hoff, Nat.add_sub_cancel]

theorem residualCheck_lenient (hc : s.crc ≠ 0) (hs : s.params.strict = false) :
    residualCheck s = .next (s.log .crcResidualNonzero (.residual s.crc) off) := by
  rw [residualCheck, if_pos hc, State.warn_lenient hs, State.wordOffset_eq hoff]

theorem residualCheck_strict (hc : s.crc ≠ 0) (hs : s.params.strict = true) :
    residualCheck s = .next (s.raise .crcResidualNonzero (.residual s.crc) off) := by
  rw [residualCheck, if_pos hc, State.warn_strict hs rfl, State.wordOffset_eq hoff]

theorem dispatch_ignored {code : Word} (h2 : code ≠ 2#32) (h7 : code ≠ 7#32) :
    dispatch code s = .next (s.log .commandIgnored (.command code) off) := by
  rcases dispatch_cases code s with ⟨h, _⟩ | ⟨h, _⟩ | ⟨_, _, h⟩
  · exact absurd h h2
  · exact absurd h h7
  · rw [h, State.wordOffset_eq hoff]
end

variable {c : ChipDescriptor} {v : Word}

theorem flrCheck_match (hflr : s.regs.flr.toNat + 1 = c.frameWordLength) : flrCheck c s = s :=
  if_neg (not_not.2 hflr)

section
variable {off : Nat} (hoff : s.pos = off + 4) (hflr : s.regs.flr.toNat + 1 ≠ c.frameWordLength)
include hoff hflr

theorem flrCheck_lenient (hs : s.params.strict = false) :
    flrCheck c s = s.log .geometryMismatch (.geometry s.regs.flr c.frameWordLength) off := by
  rw [flrCheck, if_pos hflr, State.warn_lenient hs, State.wordOffset_eq hoff]

theorem flrCheck_strict (hs : s.params.strict = true) :
    flrCheck c s = s.raise .geometryMismatch (.geometry s.regs.flr c.frameWordLength) off := by
  rw [flrCheck, if_pos hflr, State.warn_strict hs rfl, State.wordOffset_eq hoff]
end

/-- No two entries of a well-formed table share an idcode (R9), so the entry with an idcode is the one found. -/
theorem findChip_of_mem {chips : List ChipDescriptor} (hok : chipTableOk chips = true) (hc : c ∈ chips)
    (hv : c.idcode = v) : findChip v chips = some c := by
  obtain ⟨_, hnodup⟩ := (chipTableOk_iff chips).1 hok
  cases hf : findChip v chips with
  | none => exact absurd hv (by simpa using List.find?_eq_none.1 hf c hc)
  | some c' =>
    obtain ⟨hc', hv'⟩ := findChip_some hf
    rw [List.inj_on_of_nodup_map hnodup hc' hc (hv'.trans hv.symm)]

theorem findChip_eq_none {chips : List ChipDescriptor} (h : ∀ c ∈ chips, c.idcode ≠ v) : findChip v chips = none :=
  List.find?_eq_none.2 fun c hc => by simpa using h c hc

section
variable (hf : findChip v s.params.chips = some c)
include hf

theorem resolveChip_same (hc : s.chip = some c) : resolveChip v s = .next s := by
  simp only [resolveChip, hf, hc, if_true]

/-- The first match sets the chip and an empty table before FLR is checked (R219). -/
theorem resolveChip_first {u : State} (hc : s.chip = none)
    (hu : flrCheck c { s with chip := some c, store := some (allocate c) } = u) : resolveChip v s = .next u := by
  simp only [resolveChip, hf, hc, hu]
end

section
variable {off : Nat} (hoff : s.pos = off + 4)
include hoff

theorem resolveChip_unrecognized (hf : findChip v s.params.chips = none) :
    resolveChip v s = .next (s.raise .unrecognizedChip (.idcode v) off) := by
  rw [resolveChip, hf, State.wordOffset_eq hoff]

variable (hf : findChip v s.params.chips = some c)
include hf

theorem resolveChip_changed {c0 : ChipDescriptor} (hc : s.chip = some c0) (hne : c0 ≠ c) :
    resolveChip v s = .next (s.raise .chipChanged (.idcode v) off) := by
  simp only [resolveChip, hf, hc, if_neg hne, State.wordOffset_eq hoff]
end

variable {frame : Option Frame} {far : Word} {off : Nat}

/-- Each reason for which a capture fails makes it raise that error (R230). -/
theorem CaptureFails.capture_eq {k : EventKind} {i : Info} (h : CaptureFails frame far s k i) :
    capture frame far off s = .next (s.raise k i off) := by
  cases h with
  | chip hc => simp only [capture, hc]
  | frame c hc hf => simp only [capture, hc, hf]
  | block c hc f hf hk => simp only [capture, hc, hf, hk, State.unrecognizedBlock_eq]
  | geometry c hc f hf k hk hg => simp [capture, hc, hf, hk, hg]

theorem capture_inGeometry {f : Frame} {k : SlotKey} {t : SlotTable} (hc : s.chip = some c) (hf : frame = some f)
    (hk : slotOf c far = some k) (hg : inGeometry c k = true) (ht : s.store = some t) :
    capture frame far off s = .next (capturedState c t k f off s) := by
  simp only [capture, hc, hf, hk, hg, if_true, captureInto, ht, State.warn_duplicate, capturedState]

/-- One record for both branches of the duplicate warning. -/
theorem capturedState_eq (t : SlotTable) (k : SlotKey) (f : Frame) :
    capturedState c t k f off s =
      { s with
        store := some (slotWrite c t k f)
        diag := if (slotRead c t k).isSome then
            s.diag ++ [{ kind := .duplicateFrameCapture, code := 8, info := .slot k, offset := off }]
          else s.diag } := by
  unfold capturedState
  split <;> rfl

theorem slotOf_eq_none_of_blockThree (h : (farDecode far).block = 3#2) : slotOf c far = none := by
  rw [slotOf_eq_map, (regionOf_eq_none c _ _).2 h, Option.map_none]
end

/-! ## The rules of the register writes -/

/-- Every register but the five with a hook is written plainly (R180). -/
theorem exec_data_eq_plainWrite {r : Reg} (h : r ∉ [.crc, .far, .fdri, .cmd, .idcode]) (v : Word) (s : State) :
    exec (Instr.data r v) s = plainWrite r v s := by
  cases r with
  | crc | far | fdri | cmd | idcode => simp at h
  | fdro | ctl | mask | stat | lout | cor | mfwr | flr | key | cbc => rfl

/-- Settles O11: the nine registers have no hook and are folded, each with its own address. -/
theorem plainWriteStoresAndFolds : Obligations.PlainWriteStoresAndFolds := by
  intro r addr v s hr hs hb
  obtain ⟨hplain, hlout, rfl⟩ : r ∉ [.crc, .far, .fdri, .cmd, .idcode] ∧ r ≠ .lout ∧ r.addr = addr :=
    (by decide : ∀ p ∈ _, p.1 ∉ [.crc, .far, .fdri, .cmd, .idcode] ∧ p.1 ≠ .lout ∧ p.1.addr = p.2) (r, addr) hr
  have hcrc : r ≠ .crc := by rintro rfl; simp at hplain
  refine ⟨_, exec_data_eq_plainWrite hplain v s, ?_, crcUpdate_of_ne _ _ _ hlout, fun r' hne hne0 => ?_,
    State.finishPayload_eq hs hb⟩
  · rw [State.readReg_finishPayload, State.readReg_payloadWrite_same hcrc]
  · rw [State.readReg_finishPayload, State.readReg_payloadWrite_other hne hne0]

/-- Settles O12: LOUT has no hook, and its fold is the accumulator itself. -/
theorem loutWriteIsNotFolded : Obligations.LoutWriteIsNotFolded := by
  intro v s hs hb
  exact plainWrite_counted State.payloadWrite_lout hs hb

/-- Settles O13: the residual check on the folded accumulator, by its three outcomes. -/
theorem crcWriteKeepsTheResidual : Obligations.CrcWriteKeepsTheResidual := by
  intro v s hs hb c next
  have hw : s.payloadWrite .crc v = { s with pos := s.pos + 4, crc := c } :=
    State.payloadWrite_eq_of_ne_lout (by decide)
  refine ⟨?_, fun hc => ?_, fun hc hstrict => ?_, fun hc hstrict => ?_⟩
  · rintro rfl
    exact (crcFold_setWidth_eq_zero_iff _ _).2 rfl
  · exact hookedWrite_counted hw (residualCheck_zero hc) hs hb
  · exact hookedWrite_counted hw (residualCheck_lenient rfl hc hstrict) hs hb
  · exact hookedWrite_raised hw (residualCheck_strict rfl hc hstrict) hs

/-- Settles O14: the hook of both registers is `dispatch`, and `dispatch` runs the row of the code. -/
theorem cmdAndFarWordsRunTheirCommandRow : Obligations.CmdAndFarWordsRunTheirCommandRow := by
  intro v s _ count
  have hcmd : s.payloadWrite .cmd v = _ := State.payloadWrite_eq_of_ne_lout (by decide)
  have hfar : s.payloadWrite .far v = _ := State.payloadWrite_eq_of_ne_lout (by decide)
  constructor
  · show count (dispatch v (s.payloadWrite .cmd v)) = _
    rw [hcmd, dispatch_eq_exec]
    rfl
  · show count (dispatch s.regs.cmd (s.payloadWrite .far v)) = _
    rw [hfar, dispatch_eq_exec]
    rfl

/-- Settles O15: the row is `dispatch` of its code, which only logs, so the word that dispatched it is counted. -/
theorem ignoredCommandsOnlyLog : Obligations.IgnoredCommandsOnlyLog := by
  intro code s h2 h7 event
  refine ⟨fun off hoff => ?_, fun hs hb => ?_, fun v hs hb hcmd => ?_⟩
  · rw [← dispatch_eq_exec, dispatch_ignored hoff h2 h7]
    rfl
  · exact hookedWrite_counted (State.payloadWrite_eq_of_ne_lout (by decide)) (dispatch_ignored rfl h2 h7) hs hb
  · subst hcmd
    exact hookedWrite_counted (hook := fun s1 => dispatch s1.regs.cmd s1)
      (State.payloadWrite_eq_of_ne_lout (by decide)) (dispatch_ignored rfl h2 h7) hs hb

/-- Settles O16: RCRC clears the accumulator, so the fold of the word that dispatched it is lost. -/
theorem crcResetDiscardsItsOwnWrite : Obligations.CrcResetDiscardsItsOwnWrite := by
  intro s
  refine ⟨rfl, fun hs hb => ?_, fun v hs hb hcmd => ?_⟩
  · exact hookedWrite_counted (s := s) (r := .cmd) (hook := dispatch 7#32) rfl rfl hs hb
  · have hclear : dispatch s.regs.cmd (s.payloadWrite .far v) = .next ((s.payloadWrite .far v).setCrc 0#16) := by
      rw [hcmd]
      rfl
    exact hookedWrite_counted (s := s) (r := .far) (v := v) (hook := fun s1 => dispatch s1.regs.cmd s1) rfl hclear hs hb

/-- Settles O17: MFWR is the capture of the pending frame at the current FAR, by its four errors and its one write. -/
theorem mfwrCapturesAtTheCurrentFar : Obligations.MfwrCapturesAtTheCurrentFar := by
  intro s off hoff failed
  have hexec : exec .cmdMfwr s = capture s.pending s.regs.far off s := by
    rw [← State.wordOffset_eq hoff]
    rfl
  rw [hexec]
  refine ⟨fun hc => ?_,
    fun c hc => ⟨fun hp => ?_, fun f hp => ⟨fun hb => ?_, fun k hk => ⟨fun hg => ?_, fun t hcol hframe ht => ?_⟩⟩⟩⟩
  · exact ⟨_, (CaptureFails.chip hc).capture_eq⟩
  · exact ⟨_, (CaptureFails.frame c hc hp).capture_eq⟩
  · exact ⟨_, (CaptureFails.block c hc f hp (slotOf_eq_none_of_blockThree hb)).capture_eq⟩
  · rw [← inGeometry_iff, Bool.not_eq_true] at hg
    exact ⟨_, (CaptureFails.geometry c hc f hp k hk hg).capture_eq⟩
  · have hg : inGeometry c k = true := (inGeometry_iff c k).2 ⟨hcol, hframe⟩
    rw [capture_inGeometry hc hp hk hg ht, capturedState_eq]

/-- Settles O19: the outcomes of the chip's resolution, on the state after the word has been folded and stored. -/
theorem idcodeWordResolvesTheChip : Obligations.IdcodeWordResolvesTheChip := by
  intro v s hok hs hb s1 count failed
  have hw : s.payloadWrite .idcode v = s1 := State.payloadWrite_eq_of_ne_lout (by decide)
  refine ⟨fun hnone => ?_, fun c hc hv => ?_⟩
  · exact hookedWrite_raised hw (resolveChip_unrecognized rfl (findChip_eq_none hnone)) hs
  have hf : findChip v s1.params.chips = some c := findChip_of_mem hok hc hv
  refine ⟨fun hchip => ?_, fun c0 hchip hne => ?_,
    fun hchip => ⟨fun hflr => ?_, fun hflr hstrict => ?_, fun hflr hstrict => ?_⟩⟩
  · exact hookedWrite_counted hw (resolveChip_same hf hchip) hs hb
  · exact hookedWrite_raised hw (resolveChip_changed rfl hf hchip hne) hs
  · exact hookedWrite_counted hw (resolveChip_first hf hchip (flrCheck_match hflr)) hs hb
  · exact hookedWrite_counted hw (resolveChip_first hf hchip (flrCheck_lenient rfl hflr hstrict)) hs hb
  · exact hookedWrite_raised hw (resolveChip_first hf hchip (flrCheck_strict rfl hflr hstrict)) hs

/-- Settles O22: the fold with the CRC register's address, and the AUTOCRC reading of the burst's last word. -/
theorem autoCrcWordEndsTheBurst : Obligations.AutoCrcWordEndsTheBurst := by
  intro w s
  have hexec : exec (.autocrc w) s =
      .next { s with pos := s.pos + 4, crc := crcFold s.crc 0#5 w, st := .waitingControl } := by
    show execAutocrc w s = _
    rw [execAutocrc, State.foldCrc, crcUpdate_of_ne _ _ _ (by decide)]
    rfl
  refine ⟨hexec, ?_, fun hc ⟨hrst, hstep⟩ hs hr hp hrem hword => ?_⟩
  · rintro rfl
    exact (crcFold_setWidth_eq_zero_iff _ _).2 rfl
  · have hctx : s.context = some .autoCrc := by simp [State.context, hs, hr, hp]
    rw [step_running hc hrst hstep (.inr (.inr hs)), wordStep, fetch_word hrem hctx, hword]
    exact hexec

end Sys2Proof.Machine
end

section
/-! SUPPORT. The queries of the frame store: the traversal's keys region by region, whose flat indices are consecutive
ranges; and a lookup's answer, a frame's bytes four to a word. -/

namespace Sys2Proof.Machine

/-! ## The traversal's keys and their flat indices (spec/44_frame_store.md R232, R241) -/

/-- The part of `allSlotKeys` that belongs to one region. -/
def slotKeysOf (c : ChipDescriptor) (r : Region) : List SlotKey :=
  (List.range (c.columnCount.get r)).flatMap fun col =>
    (List.range (c.frameCount.get r)).map fun f => { region := r, column := col, frame := f }

theorem allSlotKeys_eq_flatMap_slotKeysOf (c : ChipDescriptor) : allSlotKeys c = Region.all.flatMap (slotKeysOf c) := rfl

theorem mem_slotKeysOf {c : ChipDescriptor} {r : Region} {k : SlotKey} :
    k ∈ slotKeysOf c r ↔ k.region = r ∧ inGeometry c k = true := by
  obtain ⟨r', col, f⟩ := k
  simp only [slotKeysOf, inGeometry_iff, List.mem_flatMap, List.mem_map, List.mem_range, SlotKey.mk.injEq]
  constructor
  · rintro ⟨_, hcol, _, hf, rfl, rfl, rfl⟩
    exact ⟨rfl, hcol, hf⟩
  · rintro ⟨rfl, hcol, hf⟩
    exact ⟨col, hcol, f, hf, rfl, rfl, rfl⟩

theorem mem_allSlotKeys {c : ChipDescriptor} {k : SlotKey} : k ∈ allSlotKeys c ↔ inGeometry c k = true := by
  have hall : k.region ∈ Region.all := by cases k.region <;> decide
  simp [allSlotKeys_eq_flatMap_slotKeysOf, mem_slotKeysOf, hall]

/-- Consecutive ranges of one length, one per row, are one range. -/
theorem flatMap_range'_rows (b m n : Nat) :
    (List.range n).flatMap (fun i => List.range' (b + i * m) m) = List.range' b (n * m) := by
  induction n with
  | zero => simp
  | succ n ih =>
    rw [List.range_succ, List.flatMap_append, ih, List.flatMap_singleton, List.range'_append_1, Nat.succ_mul]

/-- A region's keys, columns outside and frames inside, fill the region's part of the table in order. -/
theorem map_flatIndex_slotKeysOf (c : ChipDescriptor) (r : Region) :
    (slotKeysOf c r).map (flatIndex c) = List.range' (regionBase c r) (regionSlots c r) := by
  have hcolumn : ∀ col,
      ((List.range (c.frameCount.get r)).map fun f => flatIndex c { region := r, column := col, frame := f }) =
        List.range' (regionBase c r + col * c.frameCount.get r) (c.frameCount.get r) := by
    intro col
    rw [List.range'_eq_map_range]
    rfl
  simp only [slotKeysOf, List.map_flatMap, List.map_map, Function.comp_def, hcolumn]
  exact flatMap_range'_rows ..

/-- Each region starts where the one before it ends, so the parts of the table join to the whole. -/
theorem map_flatIndex_allSlotKeys (c : ChipDescriptor) :
    (allSlotKeys c).map (flatIndex c) = List.range (totalSlots c) := by
  rw [allSlotKeys_eq_flatMap_slotKeysOf, List.map_flatMap, List.range_eq_range', totalSlots_eq]
  simp only [Region.all, List.flatMap_cons, List.flatMap_nil, List.append_nil, map_flatIndex_slotKeysOf, regionBase,
    ← List.append_assoc]
  simp only [← List.range'_append_1, Nat.zero_add]

/-! ## The open store and what its slots hold (R234, R235, R240) -/

section
variable {s : State} {c : ChipDescriptor} {t : SlotTable} {k : SlotKey} {f : Frame}

theorem State.openStore_of_store_none (ht : s.store = none) : s.openStore = none := by
  simp [State.openStore, ht]

theorem State.openStore_of_chip_of_store (hc : s.chip = some c) (ht : s.store = some t) : s.openStore = some (c, t) := by
  simp only [State.openStore, hc, ht]

theorem mem_of_slotRead (h : slotRead c t k = some f) : some f ∈ t := by
  rw [slotRead, List.getD_eq_getElem?_getD] at h
  cases hk : t[flatIndex c k]? with
  | none => simp [hk] at h
  | some x =>
    obtain rfl : x = some f := by simpa [hk] using h
    exact List.mem_of_getElem? hk

theorem StoreInv.frame_length (h : StoreInv s) (hc : s.chip = some c) (ht : s.store = some t)
    (hf : slotRead c t k = some f) : f.length = c.frameWordLength := by
  simp only [StoreInv, hc, ht] at h
  exact h.2 f (mem_of_slotRead hf)

theorem lookupFrame_of_store_none (ht : s.store = none) : lookupFrame s k = .refused .noStore := by
  rw [lookupFrame, State.openStore_of_store_none ht]

variable (ho : s.openStore = some (c, t))
include ho

theorem lookupFrame_outOfGeometry (hg : ¬ inGeometry c k = true) : lookupFrame s k = .refused .outOfGeometry := by
  simp only [lookupFrame, ho, if_neg hg]

theorem lookupFrame_empty (hg : inGeometry c k = true) (hk : slotRead c t k = none) : lookupFrame s k = .notCaptured := by
  simp only [lookupFrame, ho, if_pos hg, hk]

theorem lookupFrame_filled (hg : inGeometry c k = true) (hk : slotRead c t k = some f) :
    lookupFrame s k = .frame (frameBytes f) := by
  simp only [lookupFrame, ho, if_pos hg, hk]

theorem traverse_of_openStore : traverse s = .ok ((allSlotKeys c).map fun k => (k, slotRead c t k)) := by
  simp only [traverse, ho]
end

/-! ## A frame's bytes (spec/20_memory.md R66) -/

@[simp] theorem bytesOfWord_length (w : Word) : (bytesOfWord w).length = 4 := rfl

theorem frameBytes_length (f : Frame) : (frameBytes f).length = 4 * f.length := by
  simp [frameBytes, List.length_flatMap, Nat.mul_comm]

theorem bytesOfWord_getElem? (w : Word) {j : Nat} (hj : j < 4) :
    (bytesOfWord w)[j]? = some (w.extractLsb' (8 * (3 - j)) 8) := by
  match j, hj with
  | 0, _ | 1, _ | 2, _ | 3, _ => rfl

/-- Byte `4 * i + j` of a frame is byte `j` of its word `i`. -/
theorem frameBytes_getElem? {f : Frame} {i j : Nat} {w : Word} (hw : f[i]? = some w) (hj : j < 4) :
    (frameBytes f)[4 * i + j]? = some (w.extractLsb' (8 * (3 - j)) 8) := by
  induction f generalizing i with
  | nil => simp at hw
  | cons v f ih =>
    have hcons : frameBytes (v :: f) = bytesOfWord v ++ frameBytes f := rfl
    cases i with
    | zero =>
      obtain rfl : v = w := by simpa using hw
      rw [hcons, Nat.mul_zero, Nat.zero_add, List.getElem?_append_left (by simpa using hj), bytesOfWord_getElem? v hj]
    | succ i =>
      have hnext : 4 * (i + 1) + j - (bytesOfWord v).length = 4 * i + j := by rw [bytesOfWord_length]; omega
      rw [hcons, List.getElem?_append_right (by rw [bytesOfWord_length]; omega), hnext]
      exact ih (by simpa using hw)

/-! ## The rules of the queries -/

/-- Settles O30: the keys of the traversal are those in geometry, and their flat indices are one range. -/
theorem traversalIsInFlatIndexOrder : Obligations.TraversalIsInFlatIndexOrder := by
  intro s c t hc ht
  have hkeys : ((allSlotKeys c).map fun k => (k, slotRead c t k)).map (fun p => p.1) = allSlotKeys c := by
    simp [Function.comp_def]
  refine ⟨_, traverse_of_openStore (State.openStore_of_chip_of_store hc ht), ?_, fun k => ?_, fun p hp => ?_⟩
  · rw [← map_flatIndex_allSlotKeys, List.map_map]
    rfl
  · rw [hkeys, mem_allSlotKeys, inGeometry_iff]
  · obtain ⟨k, _, rfl⟩ := List.mem_map.1 hp
    rfl

/-- Settles O31: the four answers are the branches of `lookupFrame`, and a coherent store holds whole frames. -/
theorem lookupAnswersFourWays : Obligations.LookupAnswersFourWays := by
  intro s k hinv
  refine ⟨lookupFrame_of_store_none, fun c t hc ht => ?_⟩
  have ho : s.openStore = some (c, t) := State.openStore_of_chip_of_store hc ht
  refine ⟨fun hg => ?_, fun hcol hframe => ?_⟩
  · exact lookupFrame_outOfGeometry ho (mt (inGeometry_iff c k).1 hg)
  · have hg : inGeometry c k = true := (inGeometry_iff c k).2 ⟨hcol, hframe⟩
    refine ⟨lookupFrame_empty ho hg, fun f hf => ⟨lookupFrame_filled ho hg hf, ?_, fun i j w hw hj => ?_⟩⟩
    · have hlen : f.length = c.frameWordLength := hinv.store.frame_length hc ht hf
      rw [← hlen]
      exact frameBytes_length f
    · refine ⟨_, frameBytes_getElem? hw hj, ?_⟩
      rw [BitVec.extractLsb'_toNat, Nat.shiftRight_eq_div_pow]

end Sys2Proof.Machine
end

section
/-! SUPPORT. The two directions of the codec (spec/30_encoding.md): the word of a row is read as that row, and the row a
word is read as is the row of that word. -/

namespace Sys2Proof

/-! ## From a row to its word -/

/-- Every constructor's own law, as one. -/
theorem decodeWord_encode : ∀ i : Instr, Laws.Codec.Statement i
  | .sync => Laws.Codec.sync
  | .scan w => Laws.Codec.scan w
  | .noop ignored => Laws.Codec.noop ignored
  | .t1wCrc count => Laws.Codec.t1wCrc count
  | .t1wFar count => Laws.Codec.t1wFar count
  | .t1wFdri count => Laws.Codec.t1wFdri count
  | .t1wFdro count => Laws.Codec.t1wFdro count
  | .t1wCmd count => Laws.Codec.t1wCmd count
  | .t1wCtl count => Laws.Codec.t1wCtl count
  | .t1wMask count => Laws.Codec.t1wMask count
  | .t1wStat count => Laws.Codec.t1wStat count
  | .t1wLout count => Laws.Codec.t1wLout count
  | .t1wCor count => Laws.Codec.t1wCor count
  | .t1wMfwr count => Laws.Codec.t1wMfwr count
  | .t1wFlr count => Laws.Codec.t1wFlr count
  | .t1wKey count => Laws.Codec.t1wKey count
  | .t1wCbc count => Laws.Codec.t1wCbc count
  | .t1wIdcode count => Laws.Codec.t1wIdcode count
  | .t1rCrc count => Laws.Codec.t1rCrc count
  | .t1rFar count => Laws.Codec.t1rFar count
  | .t1rFdri count => Laws.Codec.t1rFdri count
  | .t1rFdro count => Laws.Codec.t1rFdro count
  | .t1rCmd count => Laws.Codec.t1rCmd count
  | .t1rCtl count => Laws.Codec.t1rCtl count
  | .t1rMask count => Laws.Codec.t1rMask count
  | .t1rStat count => Laws.Codec.t1rStat count
  | .t1rLout count => Laws.Codec.t1rLout count
  | .t1rCor count => Laws.Codec.t1rCor count
  | .t1rMfwr count => Laws.Codec.t1rMfwr count
  | .t1rFlr count => Laws.Codec.t1rFlr count
  | .t1rKey count => Laws.Codec.t1rKey count
  | .t1rCbc count => Laws.Codec.t1rCbc count
  | .t1rIdcode count => Laws.Codec.t1rIdcode count
  | .t2 op count => Laws.Codec.t2 op count
  | .illegalT1Op11 rest => Laws.Codec.illegalT1Op11 rest
  | .illegalT1rFields addrHi reg rsv count => Laws.Codec.illegalT1rFields addrHi reg rsv count
  | .illegalT1wFields addrHi reg rsv count => Laws.Codec.illegalT1wFields addrHi reg rsv count
  | .illegalType0 rest => Laws.Codec.illegalType0 rest
  | .illegalType3 rest => Laws.Codec.illegalType3 rest
  | .illegalType4 rest => Laws.Codec.illegalType4 rest
  | .illegalType5 rest => Laws.Codec.illegalType5 rest
  | .illegalType6 rest => Laws.Codec.illegalType6 rest
  | .illegalType7 rest => Laws.Codec.illegalType7 rest
  | .dataCrc value => Laws.Codec.dataCrc value
  | .dataFar value => Laws.Codec.dataFar value
  | .dataFdri value => Laws.Codec.dataFdri value
  | .autocrc value => Laws.Codec.autocrc value
  | .dataFdro value => Laws.Codec.dataFdro value
  | .dataCmd value => Laws.Codec.dataCmd value
  | .dataCtl value => Laws.Codec.dataCtl value
  | .dataMask value => Laws.Codec.dataMask value
  | .dataStat value => Laws.Codec.dataStat value
  | .dataLout value => Laws.Codec.dataLout value
  | .dataCor value => Laws.Codec.dataCor value
  | .dataMfwr value => Laws.Codec.dataMfwr value
  | .dataFlr value => Laws.Codec.dataFlr value
  | .dataKey value => Laws.Codec.dataKey value
  | .dataCbc value => Laws.Codec.dataCbc value
  | .dataIdcode value => Laws.Codec.dataIdcode value
  | .cmdNull => Laws.Codec.cmdNull
  | .cmdWcfg => Laws.Codec.cmdWcfg
  | .cmdMfwr => Laws.Codec.cmdMfwr
  | .cmdLfrm => Laws.Codec.cmdLfrm
  | .cmdRcfg => Laws.Codec.cmdRcfg
  | .cmdStart => Laws.Codec.cmdStart
  | .cmdRcap => Laws.Codec.cmdRcap
  | .cmdRcrc => Laws.Codec.cmdRcrc
  | .cmdAghigh => Laws.Codec.cmdAghigh
  | .cmdSwitch => Laws.Codec.cmdSwitch
  | .cmdGrestore => Laws.Codec.cmdGrestore
  | .cmdShutdown => Laws.Codec.cmdShutdown
  | .cmdGcapture => Laws.Codec.cmdGcapture
  | .cmdDesynch => Laws.Codec.cmdDesynch
  | .cmdOther code => Laws.Codec.cmdOther code
/-- Settles O1: the law of each constructor, and the bytes of a word are read as that word. -/
theorem decodeOfEncodeIsTheInstruction : Obligations.DecodeOfEncodeIsTheInstruction := by
  intro i rest hwf
  have hword : decodeWord i.context (encode i) = i := decodeWord_encode i hwf
  refine ⟨hword, ?_⟩
  rw [encodeBytes, decode_bytesOfWord, hword]

/-! ## From a word to its row -/

/-- `i` is a row of the reading `c` whose word is `w`. -/
structure IsRowOf (c : WordContext) (w : Word) (i : Instr) : Prop where
  wf : i.wf = true
  encode : Sys2Proof.encode i = w
  context : i.context = c

section Layouts
variable {w : Word}

/-- A header is its type, as a number, and its other bits. -/
theorem headerRaw_of_type {n : Nat} (h : (w.extractLsb' 29 3).toNat = n) :
    headerRaw (BitVec.ofNat 3 n) (w.extractLsb' 0 29) = w := by
  rw [← h, BitVec.ofNat_toNat, BitVec.setWidth_eq, headerRaw_join]

theorem opRest_join (w : Word) : (w.extractLsb' 27 2 ++ w.extractLsb' 0 27 : BitVec 29) = w.extractLsb' 0 29 :=
  BitVec.extractLsb'_append_extractLsb'_eq_extractLsb' (by decide)

theorem fields_join (w : Word) :
    (w.extractLsb' 18 9 ++ w.extractLsb' 13 5 ++ w.extractLsb' 11 2 ++ w.extractLsb' 0 11 : BitVec 27) =
      w.extractLsb' 0 27 := by
  rw [BitVec.extractLsb'_append_extractLsb'_eq_extractLsb' (by decide),
    BitVec.extractLsb'_append_extractLsb'_eq_extractLsb' (by decide),
    BitVec.extractLsb'_append_extractLsb'_eq_extractLsb' (by decide)]

section TypeOne
variable (ht : (w.extractLsb' 29 3).toNat = 1) {n : Nat} (ho : (w.extractLsb' 27 2).toNat = n)
include ht ho

/-- A Type-1 header is its op, as a number, and its other bits. -/
theorem t1Raw_of_op : t1Raw (BitVec.ofNat 2 n) (w.extractLsb' 0 27) = w := by
  rw [t1Raw, ← ho, BitVec.ofNat_toNat, BitVec.setWidth_eq, opRest_join, headerRaw_of_type ht]

/-- A Type-1 header is its op, as a number, and its four fields. -/
theorem t1Fields_of_op :
    t1Fields (BitVec.ofNat 2 n) (w.extractLsb' 18 9) (w.extractLsb' 13 5) (w.extractLsb' 11 2) (w.extractLsb' 0 11) = w := by
  rw [t1Fields, fields_join, t1Raw_of_op ht ho]

end TypeOne

/-- A Type-2 header is its op and its count. -/
theorem t2Header_join (ht : (w.extractLsb' 29 3).toNat = 2) : t2Header (w.extractLsb' 27 2) (w.extractLsb' 0 27) = w := by
  rw [t2Header, opRest_join, headerRaw_of_type ht]

end Layouts

theorem isRowOf_decodeT1_header (o : PacketOp) (r : Reg) (n : BitVec 11) :
    IsRowOf .control (t1Header o r n) (decodeT1 o (t1Header o r n)) := by
  rw [decodeT1_header]
  cases o <;> cases r <;> exact ⟨rfl, rfl, rfl⟩

/-- The checks of R86 pick the register's row or the ILLEGAL row, and both keep all four fields. -/
theorem isRowOf_decodeT1 {o : PacketOp} {w : Word}
    (hw : t1Fields o.bits (w.extractLsb' 18 9) (w.extractLsb' 13 5) (w.extractLsb' 11 2) (w.extractLsb' 0 11) = w) :
    IsRowOf .control w (decodeT1 o w) := by
  cases hill : t1FieldsIllegal (w.extractLsb' 18 9) (w.extractLsb' 13 5) (w.extractLsb' 11 2) with
  | true =>
    have hrow : decodeT1 o w = _ := hw ▸ decodeT1_illegal o _ _ _ _ hill
    rw [hrow]
    cases o <;> exact ⟨hill, hw, rfl⟩
  | false =>
    simp only [t1FieldsIllegal, Bool.or_eq_false_iff, bne_eq_false_iff_eq, decide_eq_false_iff_not,
      ← Reg.ofAddr_eq_none] at hill
    obtain ⟨⟨haddrHi, hrsv⟩, hreg⟩ := hill
    obtain ⟨r, hr⟩ := Option.ne_none_iff_exists'.1 hreg
    have hheader : t1Header o r (w.extractLsb' 0 11) = w := by
      rw [haddrHi, hrsv, ← Reg.addr_of_ofAddr _ _ hr] at hw
      exact hw
    exact hheader ▸ isRowOf_decodeT1_header o r _

theorem isRowOf_classify (w : Word) : IsRowOf .control w (classify w) := by
  unfold classify
  split
  case h_2 ht =>
    split
    case h_2 ho => exact isRowOf_decodeT1 (t1Fields_of_op ht ho)
    case h_3 ho => exact isRowOf_decodeT1 (t1Fields_of_op ht ho)
    case h_1 ho => exact ⟨rfl, t1Raw_of_op ht ho, rfl⟩
    case h_4 h0 h1 h2 => exact ⟨rfl, t1Raw_of_op (n := 3) ht (by grind), rfl⟩
  case h_3 ht => exact ⟨rfl, t2Header_join ht, rfl⟩
  case h_8 => exact ⟨rfl, headerRaw_of_type (n := 7) (by grind), rfl⟩
  all_goals exact ⟨rfl, headerRaw_of_type ‹_›, rfl⟩

/-- The code of a row is a number below 14, or the row keeps the whole word (R92). -/
theorem isRowOf_decodeCommand (code : Word) : IsRowOf .command code (decodeCommand code) := by
  unfold decodeCommand
  split
  case h_15 => exact ⟨by simp [Instr.wf]; grind, rfl, rfl⟩
  all_goals
    rename_i h
    exact ⟨rfl, BitVec.eq_of_toNat_eq h.symm, rfl⟩

theorem isRowOf_decodeWord (c : WordContext) (w : Word) : IsRowOf c w (decodeWord c w) := by
  cases c with
  | unsynced =>
    by_cases h : w = syncWord
    · rw [decodeWord, if_pos h]
      exact ⟨rfl, h.symm, rfl⟩
    · rw [decodeWord, if_neg h]
      exact ⟨by simpa [Instr.wf] using h, rfl, rfl⟩
  | control => exact isRowOf_classify w
  | data r => cases r <;> exact ⟨rfl, rfl, rfl⟩
  | autoCrc => exact ⟨rfl, rfl, rfl⟩
  | command => exact isRowOf_decodeCommand w

/-- Settles O2: the row a word is read as is a row of that reading, with that word. -/
theorem encodeOfDecodeIsTheWord : Obligations.EncodeOfDecodeIsTheWord := by
  intro c w
  obtain ⟨hwf, hencode, hcontext⟩ := isRowOf_decodeWord c w
  exact ⟨hwf, hencode, hcontext⟩

end Sys2Proof
end

section
/-! SUPPORT. What a meaning answers: no row is refused, and the only faults are those of a chip with no slot table and of
an FDRI word with no chip; so a step is refused for its chip table alone, and a coherent state always steps. -/

namespace Sys2Proof.Machine

/-! ## Answers -/

/-- The answer is a next state, or the fault of a resolved chip with no slot table in `s`. -/
inductive Answers (s : State) : Result → Prop where
  | next (t : State) : Answers s (.next t)
  | noSlotTable (hc : s.chip ≠ none) (ht : s.store = none) : Answers s (.fault .noSlotTable)

theorem Answers.thenStep {s : State} {r : Result} {k : State → Result} (hr : Answers s r) (hk : ∀ u, Answers s (k u)) :
    Answers s (thenStep r k) := by
  cases hr with
  | noSlotTable hc ht => exact .noSlotTable hc ht
  | next u =>
    by_cases hu : u.st = .failed
    · rw [thenStep_ended hu]
      exact .next u
    · rw [thenStep_next hu]
      exact hk u

section
variable (s : State)

theorem capture_answers (frame : Option Frame) (far : Word) (off : Nat) : Answers s (capture frame far off s) := by
  rcases capture_cases frame far off s with
    ⟨_, e⟩ | ⟨c, hc, ⟨_, e⟩ | ⟨f, _, ⟨_, e⟩ | ⟨k, _, ⟨_, e⟩ | ⟨_, ⟨ht, e⟩ | ⟨a, _, e⟩⟩⟩⟩⟩ <;> rw [e]
  · exact .next _
  · exact .next _
  · exact .next _
  · exact .next _
  · exact .noSlotTable (by simp [hc]) ht
  · exact .next _

theorem dispatch_answers (code : Word) : Answers s (dispatch code s) := by
  rcases dispatch_cases code s with ⟨_, e⟩ | ⟨_, e⟩ | ⟨_, _, e⟩ <;> rw [e]
  · exact capture_answers s _ _ _
  · exact .next _
  · exact .next _

theorem resolveChip_answers (v : Word) : Answers s (resolveChip v s) := by
  rcases resolveChip_cases v s with ⟨_, e⟩ | ⟨_, _, ⟨_, e⟩ | ⟨_, _, _, e⟩ | ⟨_, e⟩⟩ <;> rw [e] <;> exact .next _

theorem residualCheck_answers : Answers s (residualCheck s) := by
  unfold residualCheck
  split <;> exact .next _

/-- The write of a payload word leaves the chip and the slot table, so the hook's fault is the word's. -/
theorem hookedWrite_answers (r : Reg) (v : Word) {hook : State → Result}
    (hk : Answers (s.payloadWrite r v) (hook (s.payloadWrite r v))) : Answers s (hookedWrite r v hook s) := by
  refine Answers.thenStep ?_ fun _ => .next _
  generalize hook (s.payloadWrite r v) = a at hk
  cases hk with
  | next t => exact .next t
  | noSlotTable hc ht => exact .noSlotTable hc ht

theorem fdriStep_answers (c : ChipDescriptor) (v : Word) : Answers s (fdriStep c v s) := by
  have hcapture : Answers s (if 0 < s.fdJ then capture s.pending s.pendFar s.pos s else .next s) := by
    split
    · exact capture_answers s _ _ _
    · exact .next s
  have hbegin : Answers s (if s.fdJ % c.frameWordLength = 0 then beginFrame s else .next s) := by
    split
    · exact hcapture.thenStep fun _ => .next _
    · exact .next s
  exact hbegin.thenStep fun _ => (Answers.next _).thenStep fun _ => .next _

theorem execT2_answers (op : BitVec 2) (n : BitVec 27) : Answers s (execT2 op n s) := by
  unfold execT2
  split <;> exact .next _

/-- Every row but DATA_FDRI answers in any state, and DATA_FDRI on a resolved chip. -/
theorem exec_answers (i : Instr) (hi : i.context = .data .fdri → s.chip ≠ none) : Answers s (exec i s) := by
  cases i with
  | dataCrc v => exact hookedWrite_answers s .crc v (residualCheck_answers _)
  | dataFar v => exact hookedWrite_answers s .far v (dispatch_answers _ _)
  | dataCmd v => exact hookedWrite_answers s .cmd v (dispatch_answers _ v)
  | dataIdcode v => exact hookedWrite_answers s .idcode v (resolveChip_answers _ v)
  | dataFdri v =>
    obtain ⟨c, hc⟩ := Option.ne_none_iff_exists'.1 (hi rfl)
    show Answers s (execDataFdri v s)
    rw [execDataFdri, hc]
    exact fdriStep_answers s c v
  | t2 op n => exact execT2_answers s op n
  | cmdMfwr => exact capture_answers s _ _ _
  | _ => exact .next _

theorem exec_ne_refused (i : Instr) (x : Refusal) : exec i s ≠ .refused x := by
  intro h
  by_cases hi : i.context = .data .fdri → s.chip ≠ none
  · have hans := exec_answers s i hi
    rw [h] at hans
    cases hans
  · rw [Classical.not_imp, not_not] at hi
    obtain ⟨hctx, hc⟩ := hi
    cases i <;> cases hctx
    simp [exec, execDataFdri, hc] at h
end

/-! ## The chip table (spec/00_scope.md R9) -/

theorem wordStep_ne_refused (s : State) (x : Refusal) : wordStep s ≠ .refused x := by
  unfold wordStep
  split
  · exact exec_ne_refused s _ x
  · simp
  · simp

theorem step_refused_iff (s : State) : (∃ x, step s = .refused x) ↔ chipTableOk s.params.chips = false := by
  refine ⟨fun ⟨x, h⟩ => ?_, fun h => ⟨_, step_refused h⟩⟩
  cases hc : chipTableOk s.params.chips with
  | false => rfl
  | true =>
    cases hr : s.pins.rst with
    | true => cases (step_rst hc hr).symm.trans h
    | false =>
      by_cases hrun : s.Running ∧ s.pins.step = true
      · exact absurd ((step_running hc hr hrun.2 hrun.1).symm.trans h) (wordStep_ne_refused s x)
      · by_cases hi : s.st = .idle
        · cases (step_idle hc hr hi).symm.trans h
        · cases (step_stays hc hr hi hrun).symm.trans h

theorem Region.mem_all (r : Region) : r ∈ Region.all := by cases r <;> decide

/-- Settles O36: no word is refused, and the chip table's check is R9 with every region written out. -/
theorem malformedChipTableIsRefused : Obligations.MalformedChipTableIsRefused := by
  intro s
  rw [step_refused_iff, ← Bool.not_eq_true, chipTableOk_iff]
  simp only [chipOk_iff, Region.mem_all, true_implies]

/-! ## Coherent states (spec/42_packet_framer.md R169) -/

theorem StoreInv.store_of_chip {s : State} (h : StoreInv s) {c : ChipDescriptor} (hc : s.chip = some c) :
    ∃ t, s.store = some t ∧ t.length = totalSlots c ∧ ∀ f, some f ∈ t → f.length = c.frameWordLength := by
  cases ht : s.store with
  | none => simp [StoreInv, hc, ht] at h
  | some t =>
    simp only [StoreInv, hc, ht] at h
    exact ⟨t, rfl, h⟩

theorem StoreInv.chip_of_store {s : State} (h : StoreInv s) {t : SlotTable} (ht : s.store = some t) :
    ∃ c, s.chip = some c := by
  cases hc : s.chip with
  | none => simp [StoreInv, hc, ht] at h
  | some c => exact ⟨c, rfl⟩

section
variable {s : State}

theorem payloadInv_of_ne_fdri {r : Reg} (ha : s.actReg = some r) (hf : r ≠ .fdri) :
    PayloadInv s ↔ 0 < s.budget ∧ 4 * s.budget ≤ s.remaining := by
  simp [PayloadInv, ha, hf]

theorem payloadInv_of_fdri (ha : s.actReg = some .fdri) : PayloadInv s ↔ ∃ c, s.chip = some c ∧ BurstInv c s := by
  cases hc : s.chip <;> simp [PayloadInv, ha, hc]

theorem PayloadInv.actReg_isSome (h : PayloadInv s) : ∃ r, s.actReg = some r := by
  cases ha : s.actReg with
  | none => simp [PayloadInv, ha] at h
  | some r => exact ⟨r, rfl⟩

theorem BurstInv.payloadPhase {c : ChipDescriptor} (h : BurstInv c s) (hp : s.fdPhase = .payload) :
    0 < s.budget ∧ s.budget + s.fdJ = s.fdTotal ∧ 4 * (s.budget + 1) ≤ s.remaining := by
  simpa only [hp] using h.phase

theorem BurstInv.autoCrcPhase {c : ChipDescriptor} (h : BurstInv c s) (hp : s.fdPhase = .autoCrc) :
    s.budget = 0 ∧ s.fdJ = s.fdTotal ∧ 4 ≤ s.remaining := by
  simpa only [hp] using h.phase

/-- In `WaitingData` a whole word is left and it has a reading, which is FDRI's only on a resolved chip. -/
theorem PayloadInv.context (h : PayloadInv s) (hs : s.st = .waitingData) :
    4 ≤ s.remaining ∧ ∃ c, s.context = some c ∧ (c = .data .fdri → s.chip ≠ none) := by
  obtain ⟨r, ha⟩ := h.actReg_isSome
  by_cases hf : r = .fdri
  · subst hf
    obtain ⟨c, hc, hb⟩ := (payloadInv_of_fdri ha).1 h
    cases hp : s.fdPhase with
    | payload =>
      obtain ⟨hbudget, _, hrem⟩ := hb.payloadPhase hp
      exact ⟨by omega, .data .fdri, by simp [State.context, hs, ha, hp, hbudget], fun _ => by simp [hc]⟩
    | autoCrc =>
      obtain ⟨_, _, hrem⟩ := hb.autoCrcPhase hp
      exact ⟨hrem, .autoCrc, by simp [State.context, hs, ha, hp], fun _ => by simp [hc]⟩
  · obtain ⟨hbudget, hrem⟩ := (payloadInv_of_ne_fdri ha hf).1 h
    exact ⟨by omega, .data r, by simp [State.context, hs, ha, hf, hbudget], fun e => absurd (by injection e) hf⟩

/-- A running coherent state has a word with a reading, or ends the session. -/
theorem State.Inv.context (h : s.Inv) (hrun : s.Running) :
    ∃ c, s.context = some c ∧ (c = .data .fdri → s.chip ≠ none) := by
  rcases hrun with hs | hs | hs
  · exact ⟨.unsynced, by simp [State.context, hs], by simp⟩
  · exact ⟨.control, by simp [State.context, hs], by simp⟩
  · exact ((h.payload hs).context hs).2

theorem State.Inv.wordStep_next (h : s.Inv) (hrun : s.Running) : ∃ t, wordStep s = .next t := by
  by_cases hrem : s.remaining < 4
  · rw [wordStep, fetch_end hrem, State.atEndOfInput]
    rcases hrun with hs | hs | hs
    · exact ⟨s.desync, by rw [hs]⟩
    · exact ⟨s.endSession, by rw [hs]⟩
    · exact absurd ((h.payload hs).context hs).1 (Nat.not_le.2 hrem)
  · rw [Nat.not_lt] at hrem
    obtain ⟨c, hctx, hchip⟩ := h.context hrun
    rw [wordStep, fetch_word hrem hctx]
    have hrow := isRowOf_decodeWord c (s.input.readWord s.pos)
    have hans := exec_answers s _ (hrow.context ▸ hchip)
    show ∃ t, exec (decodeWord c (s.input.readWord s.pos)) s = .next t
    generalize exec (decodeWord c (s.input.readWord s.pos)) s = a at hans ⊢
    cases hans with
    | next t => exact ⟨t, rfl⟩
    | noSlotTable hc ht =>
      obtain ⟨d, hd⟩ := Option.ne_none_iff_exists'.1 hc
      obtain ⟨a, ha, _⟩ := h.store.store_of_chip hd
      cases ht.symm.trans ha

/-- Settles O51: the pins, `start` and the terminal states answer in any state, and a word in a coherent one. -/
theorem coherentStatesNeverStop : Obligations.CoherentStatesNeverStop := by
  intro s h
  have hc := h.chips_ok
  cases hr : s.pins.rst with
  | true => exact ⟨_, step_rst hc hr⟩
  | false =>
    by_cases hrun : s.Running ∧ s.pins.step = true
    · rw [step_running hc hr hrun.2 hrun.1]
      exact h.wordStep_next hrun.1
    · by_cases hi : s.st = .idle
      · exact ⟨_, step_idle hc hr hi⟩
      · exact ⟨_, step_stays hc hr hi hrun⟩
end

end Sys2Proof.Machine
end

section
/-! SUPPORT. The coherence of a state, element by element: what each shape of a step leaves of the slot table and the
pending frame, of the counts of a payload, and of the words still to come. -/

namespace Sys2Proof.Machine

/-! ## Reset (spec/10_state.md R45) -/

theorem State.resetWith_inv {p : Params} {m : Memory} (hp : chipTableOk p.chips = true) (hm : m.wf = true) (pins : Pins) :
    (State.resetWith p m pins).Inv where
  input_wf := hm
  chips_ok := hp
  pos_le := Nat.zero_le _
  pos_aligned := rfl
  chip_known := by simp [State.resetWith]
  store := by simp [StoreInv, State.resetWith]
  pending := by simp [State.resetWith]
  budget_lt := by simp [State.resetWith]
  burst_le := Nat.le_refl _
  err_iff := by simp [State.resetWith]
  payload := by simp [State.resetWith]

/-- Settles O48: the two resets are `resetWith` on a table that meets R9 and a buffer in canonical form. -/
theorem coherenceHoldsAtReset : Obligations.CoherenceHoldsAtReset :=
  ⟨State.resetWith_inv rfl Memory.empty_wf _, fun _ bytes pins hp => State.resetWith_inv hp (Memory.ofBytes_wf bytes) pins⟩

/-! ## The slot table and the pending frame (spec/44_frame_store.md R233, R234) -/

/-- The table is coherent, and so is the pending frame: it has the chip's length. -/
structure State.FramesInv (s : State) : Prop where
  store : StoreInv s
  pending : ∀ f, s.pending = some f → ∃ c, s.chip = some c ∧ f.length = c.frameWordLength

theorem State.Inv.frames {s : State} (h : s.Inv) : s.FramesInv := ⟨h.store, h.pending⟩

section
variable {s t : State}

theorem storeInv_of_some {c : ChipDescriptor} {a : SlotTable} (hc : s.chip = some c) (ha : s.store = some a)
    (hlen : a.length = totalSlots c) (hf : ∀ f, some f ∈ a → f.length = c.frameWordLength) : StoreInv s := by
  simp only [StoreInv, hc, ha]
  exact ⟨hlen, hf⟩

theorem StoreInv.of_eq (h : StoreInv s) (hc : t.chip = s.chip) (ha : t.store = s.store) : StoreInv t := by
  unfold StoreInv
  rw [hc, ha]
  exact h

theorem State.FramesInv.of_eq (h : s.FramesInv) (hc : t.chip = s.chip) (ha : t.store = s.store)
    (hp : t.pending = s.pending) : t.FramesInv :=
  ⟨h.store.of_eq hc ha, fun f hf => by rw [hc]; exact h.pending f (hp ▸ hf)⟩

/-- A chip's new table is empty, and with no chip no frame was pending. -/
theorem State.FramesInv.resolved (h : s.FramesInv) (hn : s.chip = none) {c : ChipDescriptor} (hc : t.chip = some c)
    (ha : t.store = some (allocate c)) (hp : t.pending = s.pending) : t.FramesInv := by
  refine ⟨storeInv_of_some hc ha (allocate_length c) fun f hf => ?_, fun f hf => ?_⟩
  · cases List.eq_of_mem_replicate hf
  · obtain ⟨d, hd, _⟩ := h.pending f (hp ▸ hf)
    cases hn.symm.trans hd

/-- A slot takes the pending frame, which has the chip's length. -/
theorem State.FramesInv.captured (h : s.FramesInv) {c : ChipDescriptor} (hc : s.chip = some c) {f : Frame}
    (hf : s.pending = some f) {a : SlotTable} (ha : s.store = some a) (k : SlotKey) (off : Nat) :
    (capturedState c a k f off s).FramesInv := by
  obtain ⟨a', ha', hlen, hwhole⟩ := h.store.store_of_chip hc
  obtain rfl : a = a' := by simpa [ha] using ha'
  obtain ⟨d, hd, hfl⟩ := h.pending f hf
  obtain rfl : c = d := by simpa [hc] using hd
  refine ⟨storeInv_of_some (by simpa using hc) (capturedState_store ..) (by simpa using hlen) fun g hg => ?_, ?_⟩
  · rcases mem_slotWrite hg with rfl | hg
    · exact hfl
    · exact hwhole g hg
  · simpa using h.pending

theorem HookShape.frames {v : Word} {s1 u : State} {r : Reg} (h : HookShape v s1 r u) (hi : s1.FramesInv) : u.FramesInv := by
  cases h with
  | same | residual | residualFail | ignored | clear | captureFail | resolveFail => exact hi.of_eq rfl rfl rfl
  | captured _ c hc f hf k _ _ a ha => exact hi.captured hc hf ha k _
  | resolved c _ _ hn | resolvedMismatch c _ _ hn | resolvedFail c _ _ hn => exact hi.resolved hn rfl rfl rfl

theorem Selected.frames (h : Selected s t) (hi : s.FramesInv) : t.FramesInv := by cases h <;> exact hi.of_eq rfl rfl rfl

theorem HeaderShape.frames (h : HeaderShape s t) (hi : s.FramesInv) : t.FramesInv := by
  cases h with
  | stay h => exact h.frames hi
  | fail h | enter h | burst h => exact (h.frames hi).of_eq rfl rfl rfl

theorem FrameBegun.frames {c : ChipDescriptor} (h : FrameBegun c s t) (hc : s.chip = some c) (hi : s.FramesInv) :
    t.FramesInv := by
  cases h with
  | inside => exact hi
  | first => exact hi.of_eq rfl rfl rfl
  | later _ _ f hf k _ _ a ha => exact (hi.captured hc hf ha k s.pos).of_eq rfl rfl rfl

/-- Before a word is appended, `asm` holds the words of the frame in progress (spec/10_state.md R32). -/
theorem FrameBegun.asm_length {c : ChipDescriptor} (h : FrameBegun c s t) (hb : BurstInv c s) :
    t.asm.length = s.fdJ % c.frameWordLength := by
  cases h with
  | inside hj => exact hb.asm hj
  | first h0 => simp [h0]
  | later _ hj => simp [hj]

theorem BurstShape.frames {c : ChipDescriptor} {v : Word} (h : BurstShape c v s t) (hc : s.chip = some c)
    (hb : BurstInv c s) (hi : s.FramesInv) : t.FramesInv := by
  have hframe : ∀ s1, FrameBegun c s s1 → s.fdJ % c.frameWordLength + 1 = c.frameWordLength →
      ({ appendWord v s1 with pending := some (appendWord v s1).asm } : State).FramesInv := by
    intro s1 h1 hk
    refine ⟨(h1.frames hc hi).store.of_eq rfl rfl, fun f hf => ⟨c, h1.chip.trans hc, ?_⟩⟩
    obtain rfl : s1.asm ++ [v] = f := by injection hf
    rw [List.length_append, h1.asm_length hb, List.length_singleton, hk]
  cases h with
  | captureFail => exact hi.of_eq rfl rfl rfl
  | word h => exact (h.frames hc hi).of_eq rfl rfl rfl
  | frame h hk | advanceFail h hk => exact (hframe _ h hk).of_eq rfl rfl rfl

/-! ## The counts of a payload (spec/42_packet_framer.md R169, spec/43_register_writes.md R184) -/

/-- Every element the counts of a payload and of a burst are made of is the same. -/
structure State.SameCounts (s t : State) : Prop where
  budget : t.budget = s.budget
  fdTotal : t.fdTotal = s.fdTotal
  fdJ : t.fdJ = s.fdJ
  fdPhase : t.fdPhase = s.fdPhase

theorem Selected.sameCounts (h : Selected s t) : s.SameCounts t := by cases h <;> exact ⟨rfl, rfl, rfl, rfl⟩

theorem HookShape.sameCounts {v : Word} {s1 u : State} {r : Reg} (h : HookShape v s1 r u) : s1.SameCounts u := by
  cases h <;> constructor <;> simp

theorem HookShape.actReg {v : Word} {s1 u : State} {r : Reg} (h : HookShape v s1 r u) : u.actReg = s1.actReg := by
  cases h <;> simp

theorem FrameBegun.sameCounts {c : ChipDescriptor} (h : FrameBegun c s t) : s.SameCounts t := by
  cases h <;> constructor <;> simp

theorem FrameBegun.actReg {c : ChipDescriptor} (h : FrameBegun c s t) : t.actReg = s.actReg := by
  cases h <;> simp

theorem BurstShape.actReg {c : ChipDescriptor} {v : Word} (h : BurstShape c v s t) : t.actReg = s.actReg := by
  cases h with
  | captureFail => rfl
  | word h | frame h | advanceFail h => exact h.actReg

theorem FrameBegun.pending {c : ChipDescriptor} (h : FrameBegun c s t) : t.pending = s.pending := by
  cases h <;> simp

/-- The bounds of `budget` and of `fd_j` against `fd_total`. -/
def State.CountsInv (s : State) : Prop := s.budget < 2 ^ 27 ∧ s.fdJ ≤ s.fdTotal

theorem State.SameCounts.countsInv (h : s.SameCounts t) (hi : s.CountsInv) : t.CountsInv := by
  unfold State.CountsInv
  rw [h.budget, h.fdJ, h.fdTotal]
  exact hi

theorem HeaderShape.counts (h : HeaderShape s t) (hi : s.CountsInv) : t.CountsInv := by
  cases h with
  | stay h | fail h => exact h.sameCounts.countsInv hi
  | enter h _ _ _ n _ hn => exact ⟨hn, (h.sameCounts.countsInv hi).2⟩
  | burst h _ c _ n _ hn => exact ⟨hn, Nat.zero_le _⟩

theorem BurstShape.counts {c : ChipDescriptor} {v : Word} (h : BurstShape c v s t) (hp : s.fdPhase = .payload)
    (hb : BurstInv c s) (hi : s.CountsInv) : t.CountsInv := by
  obtain ⟨hbudget, htotal, _⟩ := hb.payloadPhase hp
  have hlt := hi.1
  cases h with
  | captureFail => exact hi
  | advanceFail h => exact h.sameCounts.countsInv hi
  | word h | frame h =>
    have hs := h.sameCounts
    constructor
    · simp [hs.budget]
      omega
    · simp [hs.fdJ, hs.fdTotal]
      omega

/-! ## The words still to come (spec/42_packet_framer.md R169) -/

theorem mod_succ_of_last {j n : Nat} (h : j % n + 1 = n) : (j + 1) % n = 0 := by
  rw [← Nat.mod_add_mod, h, Nat.mod_self]

theorem mod_succ_of_not_last {j n : Nat} (hn : 0 < n) (h : j % n + 1 ≠ n) : (j + 1) % n = j % n + 1 := by
  have hlt : j % n < n := Nat.mod_lt j hn
  rw [← Nat.mod_add_mod, Nat.mod_eq_of_lt (by omega)]

theorem State.remaining_of_read (hi : t.input = s.input) (hp : t.pos = s.pos + 4) : t.remaining = s.remaining - 4 := by
  rw [State.remaining, State.remaining, hi, hp, Nat.sub_add_eq]

/-- A word counted in a burst: it was read and appended, and what makes a first frame whole makes it pending. -/
theorem BurstInv.countBurstWord {c : ChipDescriptor} (hb : BurstInv c s) (hF : 0 < c.frameWordLength)
    (hp : s.fdPhase = .payload) (hs : s.SameCounts t) (hrem : t.remaining = s.remaining - 4)
    (hasm : t.asm.length = s.fdJ % c.frameWordLength + 1)
    (hpend : c.frameWordLength ≤ s.fdJ + 1 → t.pending.isSome = true) : BurstInv c (countBurstWord t) := by
  obtain ⟨hbudget, htotal, hrest⟩ := hb.payloadPhase hp
  refine ⟨?_, ?_, fun hj => ?_, ?_⟩
  · simpa [hs.fdTotal] using hb.whole
  · simpa [hs.fdJ] using hpend
  · simp only [countBurstWord_fdJ, hs.fdJ, countBurstWord_asm, hasm] at hj ⊢
    exact (mod_succ_of_not_last hF fun hk => hj (mod_succ_of_last hk)).symm
  · have hrem' : (Sys2Proof.Machine.countBurstWord t).remaining = s.remaining - 4 := hrem
    by_cases hlast : s.budget - 1 = 0
    · simp only [countBurstWord_fdPhase, countBurstWord_budget, countBurstWord_fdJ, countBurstWord_fdTotal, hs.budget,
        hs.fdJ, hs.fdTotal, hrem', hlast, if_true]
      exact ⟨trivial, by omega, by omega⟩
    · simp only [countBurstWord_fdPhase, countBurstWord_budget, countBurstWord_fdJ, countBurstWord_fdTotal, hs.budget,
        hs.fdJ, hs.fdTotal, hs.fdPhase, hp, hrem', hlast, if_false]
      omega

theorem BurstShape.burstInv {c : ChipDescriptor} {v : Word} (h : BurstShape c v s t) (hF : 0 < c.frameWordLength)
    (hp : s.fdPhase = .payload) (hb : BurstInv c s) (ht : t.st ≠ .failed) : BurstInv c t := by
  have hrem : ∀ s1, FrameBegun c s s1 → (appendWord v s1).remaining = s.remaining - 4 := fun s1 h1 =>
    State.remaining_of_read (by simp [h1.sameInputs.2]) (by simp [h1.pos])
  have hcounts : ∀ s1, FrameBegun c s s1 → s.SameCounts (appendWord v s1) := fun s1 h1 =>
    ⟨h1.sameCounts.budget, h1.sameCounts.fdTotal, h1.sameCounts.fdJ, h1.sameCounts.fdPhase⟩
  have hasm : ∀ s1, FrameBegun c s s1 → (appendWord v s1).asm.length = s.fdJ % c.frameWordLength + 1 := fun s1 h1 => by
    simp [h1.asm_length hb]
  cases h with
  | captureFail | advanceFail => exact absurd rfl ht
  | word h hk =>
    refine hb.countBurstWord hF hp (hcounts _ h) (hrem _ h) (hasm _ h) fun hle => ?_
    have hne : s.fdJ + 1 ≠ c.frameWordLength := fun he => hk (by rw [Nat.mod_eq_of_lt (by omega), he])
    rw [appendWord_pending, h.pending]
    exact hb.pending (by omega)
  | frame h =>
    obtain ⟨hbudget, htotal, hfdJ, hphase⟩ := hcounts _ h
    exact hb.countBurstWord hF hp ⟨hbudget, htotal, hfdJ, hphase⟩ (hrem _ h) (hasm _ h) fun _ => rfl

theorem State.Inv.frameWordLength_pos (h : s.Inv) {c : ChipDescriptor} (hc : s.chip = some c) : 0 < c.frameWordLength :=
  ((chipOk_iff c).1 (((chipTableOk_iff _).1 h.chips_ok).1 c (h.chip_known c hc))).1

theorem State.Inv.burstInv (h : s.Inv) (hs : s.st = .waitingData) (ha : s.actReg = some .fdri) {c : ChipDescriptor}
    (hc : s.chip = some c) : BurstInv c s := by
  obtain ⟨d, hd, hb⟩ := (payloadInv_of_fdri ha).1 (h.payload hs)
  obtain rfl : c = d := by simpa [hc] using hd
  exact hb

theorem HeaderShape.payloadInv (h : HeaderShape s t) (hs : s.st = .waitingControl)
    (hchip : ∀ c, s.chip = some c → 0 < c.frameWordLength) (ht : t.st = .waitingData) : PayloadInv t := by
  cases h with
  | stay h => cases (h.st_err.1.trans hs).symm.trans ht
  | fail => cases ht
  | enter h r hr hf n h0 _ hrem =>
    refine (payloadInv_of_ne_fdri ?_ hf).2 ⟨h0, hrem⟩
    exact hr
  | burst h hr c hc n h0 _ hrem hm =>
    have hF := hchip c hc
    refine (payloadInv_of_fdri ?_).2 ⟨c, h.chip.trans hc, hm, fun hle => ?_, fun hj => ?_, h0, rfl, hrem⟩
    · exact hr
    · exact absurd hle (Nat.not_le.2 hF)
    · exact absurd (Nat.zero_mod _) hj

theorem HookShape.payloadInv {v : Word} {r : Reg} {u : State} (hu : HookShape v (s.payloadWrite r v) r u)
    (ha : s.actReg = some r) (hf : r ≠ .fdri) (hi : 0 < s.budget ∧ 4 * s.budget ≤ s.remaining)
    (ht : u.finishPayload.st = .waitingData) : PayloadInv u.finishPayload := by
  have hbudget : u.budget = s.budget := hu.sameCounts.budget
  have hrem : u.remaining = s.remaining - 4 := State.remaining_of_read hu.sameInputs.2 hu.pos
  refine (payloadInv_of_ne_fdri (s := u.finishPayload) (hu.actReg.trans ha) hf).2 ?_
  show 0 < u.budget - 1 ∧ 4 * (u.budget - 1) ≤ u.remaining
  have hlast : u.budget - 1 ≠ 0 := fun h0 => by simp [h0] at ht
  omega

theorem StepShape.payloadInv (h : StepShape s t) (hi : s.Inv) (ht : t.st = .waitingData) : PayloadInv t := by
  cases h with
  | stay => exact hi.payload ht
  | start | desync | finish | sync | autoCrc => cases ht
  | scan h => cases h.symm.trans ht
  | header h _ hh => exact hh.payloadInv h (fun c => hi.frameWordLength_pos) ht
  | burst h _ ha _ hp c hc hb =>
    have hchip : t.chip = some c := hb.chip.trans hc
    have hburst : BurstInv c t := hb.burstInv (hi.frameWordLength_pos hc) hp (hi.burstInv h ha hc) (by simp [ht])
    exact (payloadInv_of_fdri (hb.actReg.trans ha)).2 ⟨c, hchip, hburst⟩
  | count h _ r ha hf _ hu => exact hu.payloadInv ha hf ((payloadInv_of_ne_fdri ha hf).1 (hi.payload h)) ht
  | hookFail _ _ _ _ _ _ _ hst => cases hst.symm.trans ht

/-! ## The coherence of every next state -/

theorem StepShape.frames (h : StepShape s t) (hi : s.Inv) : t.FramesInv := by
  have hf := hi.frames
  cases h with
  | stay => exact hf
  | start | desync | finish | scan | sync | autoCrc => exact hf.of_eq rfl rfl rfl
  | header _ _ hh => exact hh.frames hf
  | burst h _ ha _ _ c hc hb => exact hb.frames hc (hi.burstInv h ha hc) hf
  | count _ _ _ _ _ _ hu => exact (hu.frames (hf.of_eq rfl rfl rfl)).of_eq rfl rfl rfl
  | hookFail _ _ _ _ _ _ hu => exact hu.frames (hf.of_eq rfl rfl rfl)

theorem StepShape.counts (h : StepShape s t) (hi : s.Inv) : t.CountsInv := by
  have hc : s.CountsInv := ⟨hi.budget_lt, hi.burst_le⟩
  cases h with
  | stay | start | desync | finish | scan | sync | autoCrc => exact hc
  | header _ _ hh => exact hh.counts hc
  | burst h _ ha _ hp c hchip hb => exact hb.counts hp (hi.burstInv h ha hchip) hc
  | count _ _ _ _ _ _ hu =>
    obtain ⟨hbudget, hburst⟩ := hu.sameCounts.countsInv hc
    exact ⟨by rw [State.finishPayload_budget]; omega, hburst⟩
  | hookFail _ _ _ _ _ _ hu => exact hu.sameCounts.countsInv hc

theorem StepShape.chip_known (h : StepShape s t) (hi : s.Inv) (c : ChipDescriptor) (hc : t.chip = some c) :
    c ∈ s.params.chips := by
  rcases h.chip with e | ⟨_, _, _, _, d, hd, _, hchip, _⟩
  · exact hi.chip_known c (e ▸ hc)
  · obtain rfl : d = c := by simpa [hchip] using hc
    exact hd

theorem StepShape.err_iff (h : StepShape s t) (hi : s.Inv) : t.err.isSome = true ↔ t.st = .failed := by
  rcases h.reports with ⟨_, rfl⟩ | ⟨hs, ⟨ht, he⟩ | ⟨ht, _, _, he⟩⟩
  · exact hi.err_iff
  · rw [he, hi.err_iff]
    exact iff_of_false hs ht
  · simp [he, ht]

theorem StepShape.pos_ok (h : StepShape s t) (hi : s.Inv) : t.pos ≤ s.input.len ∧ t.pos % 4 = 0 := by
  have hle := hi.pos_le
  have halign := hi.pos_aligned
  rcases h.pos with e | ⟨e, hrem⟩
  · omega
  · unfold State.remaining at hrem
    omega

theorem StepShape.inv (h : StepShape s t) (hi : s.Inv) : t.Inv := by
  obtain ⟨hparams, hinput⟩ := h.sameInputs
  obtain ⟨hbudget, hburst⟩ := h.counts hi
  obtain ⟨hle, halign⟩ := h.pos_ok hi
  obtain ⟨hstore, hpending⟩ := h.frames hi
  exact
    { input_wf := hinput ▸ hi.input_wf
      chips_ok := hparams ▸ hi.chips_ok
      pos_le := hinput ▸ hle
      pos_aligned := halign
      chip_known := hparams ▸ h.chip_known hi
      store := hstore
      pending := hpending
      budget_lt := hbudget
      burst_le := hburst
      err_iff := h.err_iff hi
      payload := h.payloadInv hi }

/-- Settles O49: `rst` leaves a coherent state, and so does every shape of a step. -/
theorem coherenceIsKept : Obligations.CoherenceIsKept := by
  intro s t hi h
  rcases step_shape h with ⟨_, rfl⟩ | ⟨_, ht⟩
  · exact State.resetWith_inv hi.chips_ok hi.input_wf s.pins
  · exact ht.inv hi
end

end Sys2Proof.Machine
end

section
/-! SUPPORT. The status after each shape of a step, and from it the transition table and the end of every session; and
the word at the cursor, with the pins that let a step read it. -/

namespace Sys2Proof.Machine

/-! ## The word at the cursor (spec/20_memory.md R61, spec/30_encoding.md R80) -/

theorem append_byte_toNat {n : Nat} (x : BitVec n) (b : Byte) : (x ++ b).toNat = x.toNat * 2 ^ 8 + b.toNat := by
  rw [BitVec.toNat_append, ← Nat.shiftLeft_add_eq_or_of_lt b.isLt, Nat.shiftLeft_eq]

theorem wordOfBytes_toNat (b0 b1 b2 b3 : Byte) :
    (wordOfBytes b0 b1 b2 b3).toNat =
      b0.toNat * 2 ^ 24 + b1.toNat * 2 ^ 16 + b2.toNat * 2 ^ 8 + b3.toNat := by
  unfold wordOfBytes
  simp only [append_byte_toNat]
  omega

theorem State.Running.of_context {s : State} {c : WordContext} (h : s.context = some c) : s.Running := by
  rcases context_cases h with ⟨hs, _⟩ | ⟨hs, _⟩ | ⟨hs, _⟩ | ⟨_, hs, _⟩ <;> simp [State.Running, hs]

/-- Settles O4: the fetch decodes the four bytes at the cursor, and both readings of four bytes are `wordOfBytes`. -/
theorem stepRunsTheDecodedInstruction : Obligations.StepRunsTheDecodedInstruction := by
  refine ⟨fun s c i rest hc ⟨hrst, hstep⟩ hrem hctx hdec => ?_, fun m a => ⟨rfl, wordOfBytes_toNat _ _ _ _⟩,
    fun c b0 b1 b2 b3 rest w hw => ?_⟩
  · obtain ⟨rfl, _⟩ : decodeWord c (s.input.readWord s.pos) = i ∧ [] = rest := by
      simpa [decode, Memory.wordBytes, Memory.readWord] using hdec
    rw [step_running hc hrst hstep (.of_context hctx), wordStep, fetch_word hrem hctx]
  · obtain rfl : w = wordOfBytes b0 b1 b2 b3 := BitVec.eq_of_toNat_eq (hw.trans (wordOfBytes_toNat _ _ _ _).symm)
    rfl

/-- Settles O3: each word is a literal, so the decoder computes its row. -/
theorem writtenWordsDecodeToTheirRows : Obligations.WrittenWordsDecodeToTheirRows := by
  refine ⟨rfl, rfl, rfl, rfl, rfl, rfl, rfl, rfl, rfl, rfl, ?_⟩
  decide

/-! ## The pins (spec/70_reset_and_hazards.md R290) -/

/-- Settles O35: with `rst` held a step is `State.rst`, and the other two levels are not looked at. -/
theorem rstActsBeforeStartAndStep : Obligations.RstActsBeforeStartAndStep := by
  intro s b d hc hr
  rw [step_rst (s := { s with pins := { s.pins with start := b, step := d } }) hc hr, ← hr]
  rfl

/-- A word's meaning commutes with other pin levels put in place, so with the levels of its own state. -/
theorem wordStep_pins {s t : State} (h : wordStep s = .next t) : t.pins = s.pins := by
  have hown := wordStep_withPins s.pins s
  rw [show s.withPins s.pins = s from rfl, h, mapNext_next] at hown
  injection hown with ht
  rw [ht]
  rfl

/-- Settles O40: `rst`, `start` and a low step keep the levels, and so does the word of a running state. -/
theorem noStepDrivesThePins : Obligations.NoStepDrivesThePins := by
  intro s t h
  obtain ⟨_, ⟨_, rfl⟩ | ⟨_, _, _, rfl⟩ | ⟨_, _, _, hw⟩ | ⟨_, _, _, rfl⟩⟩ := step_cases h
  · rfl
  · rfl
  · exact wordStep_pins hw
  · rfl

/-! ## The status (spec/42_packet_framer.md R172) -/

section
variable {s t : State}

theorem HeaderShape.status (h : HeaderShape s t) :
    t.st = s.st ∨ t.st = .failed ∨ (t.st = .waitingData ∧ t.actReg.isSome = true ∧ 0 < t.budget) := by
  cases h with
  | stay h => exact .inl h.st_err.1
  | fail => exact .inr (.inl rfl)
  | enter _ r hr _ n h0 => exact .inr (.inr ⟨rfl, by simp [hr], h0⟩)
  | burst _ hr c _ n h0 => exact .inr (.inr ⟨rfl, by simp [hr], h0⟩)

theorem HookShape.status {v : Word} {s1 u : State} {r : Reg} (h : HookShape v s1 r u) : u.st = s1.st ∨ u.st = .failed := by
  cases h <;> simp

/-- An FDRI word that does not fail is read, and leaves the status. -/
theorem BurstShape.status {c : ChipDescriptor} {v : Word} (h : BurstShape c v s t) :
    t.st = .failed ∨ (t.st = s.st ∧ t.pos = s.pos + 4) := by
  cases h with
  | captureFail | advanceFail => exact .inl rfl
  | word h | frame h => exact .inr ⟨h.st_err.1, by simp [h.pos]⟩

theorem HookShape.status_finishPayload {v : Word} {s1 u : State} {r : Reg} (h : HookShape v s1 r u) (hu : u.st ≠ .failed) :
    (u.finishPayload.st = .waitingControl ∧ u.finishPayload.budget = 0) ∨ u.finishPayload.st = s1.st := by
  rw [State.finishPayload_st, State.finishPayload_budget]
  by_cases hlast : u.budget - 1 = 0
  · exact .inl ⟨if_pos hlast, hlast⟩
  · exact .inr ((if_neg hlast).trans (h.status.resolve_right hu))

/-- Settles O37: each shape of a step keeps the status or is one row of the table. -/
theorem statusMovesByTheTable : Obligations.StatusMovesByTheTable := by
  intro s t hi hstep hr
  have hshape := StepShape.of_step hstep hr
  clear hstep
  cases hshape with
  | stay | scan => exact .inl rfl
  | start h hp => exact .inr (.inl ⟨h, rfl, hp⟩)
  | sync h hrem hw => exact .inr (.inr (.inl ⟨h, rfl, hrem, hw⟩))
  | desync h hrem => exact .inr (.inr (.inr (.inl ⟨h, rfl, hrem⟩)))
  | finish h hrem => exact .inr (.inr (.inr (.inr (.inl ⟨h, rfl, hrem⟩))))
  | header h hrem ht =>
    rcases ht.status with e | e | ⟨e, hact, hbudget⟩
    · exact .inl e
    · simp [h, e, hrem]
    · simp [h, e, hrem, hact, hbudget]
  | autoCrc h _ ha hp =>
    obtain ⟨c, _, hb⟩ := (payloadInv_of_fdri ha).1 (hi.payload h)
    simp [h, (hb.autoCrcPhase hp).1]
  | burst h _ _ _ _ _ _ ht =>
    rcases ht.status with e | ⟨e, _⟩
    · simp [h, e]
    · exact .inl e
  | count h _ _ _ _ _ hu hst =>
    rcases hu.status_finishPayload hst with ⟨e, hbudget⟩ | e
    · simp only [h, e, hbudget]
      simp
    · exact .inl e
  | hookFail h _ _ _ _ _ _ hst => simp [h, hst]

/-! ## The end of a session (spec/70_reset_and_hazards.md R297) -/

/-- A step that reads the stream ends the session or has read a word of it. -/
theorem StepShape.progress (h : StepShape s t) (hrun : s.Running) (hp : s.pins.step = true) :
    t.Terminal ∨ (t.Running ∧ t.pos = s.pos + 4 ∧ 4 ≤ s.remaining) := by
  cases h with
  | stay _ hlow => simp [hlow hrun] at hp
  | start h => simp [State.Running, h] at hrun
  | desync => exact .inl (.inr rfl)
  | finish => exact .inl (.inl rfl)
  | scan _ hrem => exact .inr ⟨hrun, rfl, hrem⟩
  | sync _ hrem | autoCrc _ hrem => exact .inr ⟨.inr (.inl rfl), rfl, hrem⟩
  | header _ hrem ht =>
    rcases ht.status with e | e | ⟨e, _, _⟩
    · exact .inr ⟨by simpa only [State.Running, e] using hrun, ht.pos, hrem⟩
    · exact .inl (.inr e)
    · exact .inr ⟨.inr (.inr e), ht.pos, hrem⟩
  | burst h hrem _ _ _ _ _ ht =>
    rcases ht.status with e | ⟨e, hpos⟩
    · exact .inl (.inr e)
    · exact .inr ⟨.inr (.inr (e.trans h)), hpos, hrem⟩
  | count h hrem _ _ _ _ hu hst =>
    rcases hu.status_finishPayload hst with ⟨e, _⟩ | e
    · exact .inr ⟨.inr (.inl e), hu.pos, hrem⟩
    · exact .inr ⟨.inr (.inr (e.trans h)), hu.pos, hrem⟩
  | hookFail _ _ _ _ _ _ _ hst => exact .inl (.inr hst)

/-- A stepped session reads each of the words left at most once, and ends by the step after the last. -/
theorem run_terminates (n : Nat) : ∀ s : State, s.Inv → s.Running → s.Stepping → s.remaining / 4 < n →
    ∃ k t, k ≤ n ∧ Host.Core.run Sys2Proof.core k s = .next t ∧ State.Terminal t := by
  induction n with
  | zero => exact fun _ _ _ _ h => absurd h (Nat.not_lt_zero _)
  | succ n ih =>
    intro s hi hrun hp hn
    obtain ⟨t, ht⟩ := coherentStatesNeverStop s hi
    have hfirst : ∀ k, Host.Core.run Sys2Proof.core (k + 1) s = Host.Core.run Sys2Proof.core k t := fun k => by
      simp [Host.Core.run, Sys2Proof.core, ht]
    have hshape := StepShape.of_step ht hp.1
    rcases hshape.progress hrun hp.2 with hend | ⟨hrun', hpos, hrem⟩
    · exact ⟨1, t, by omega, hfirst 0, hend⟩
    · have hleft : t.remaining = s.remaining - 4 := State.remaining_of_read hshape.sameInputs.2 hpos
      have hp' : t.Stepping := by simpa only [State.Stepping, noStepDrivesThePins s t ht] using hp
      obtain ⟨k, u, hk, hu, hend⟩ := ih t (hshape.inv hi) hrun' hp' (by omega)
      exact ⟨k + 1, u, by omega, (hfirst k).trans hu, hend⟩

/-- Settles O52: from the start of the buffer the words left are those of the whole buffer. -/
theorem everySessionEnds : Obligations.EverySessionEnds := by
  intro s hi hs hpos hp
  have hrem : s.remaining / 4 ≤ s.input.len / 4 := Nat.div_le_div_right (Nat.sub_le _ _)
  obtain ⟨k, t, hk, ht, hend⟩ := run_terminates _ s hi (.inl hs) hp (Nat.lt_succ_of_le hrem)
  exact ⟨k, t, by omega, ht, hend⟩
end

end Sys2Proof.Machine
end

section
/-! SUPPORT. Captures and the FDRI burst: what a lookup reads after a capture, an equation for each outcome of an FDRI
payload word, the words of the frame in progress, and the argument each error carries. -/

namespace Sys2Proof.Machine

/-! ## Lookups after a capture (spec/44_frame_store.md R230, R240) -/

/-- A lookup looks at one slot of the table. -/
theorem lookupFrame_of_slotRead_eq {s t : State} {c : ChipDescriptor} {a b : SlotTable} {k : SlotKey}
    (hs : s.openStore = some (c, a)) (ht : t.openStore = some (c, b))
    (h : inGeometry c k = true → slotRead c b k = slotRead c a k) : lookupFrame t k = lookupFrame s k := by
  by_cases hg : inGeometry c k = true
  · simp only [lookupFrame, hs, ht, h hg]
  · rw [lookupFrame_outOfGeometry hs hg, lookupFrame_outOfGeometry ht hg]

/-- Settles O18: MFWR writes the slot of FAR, which then reads the frame, and every other slot reads as before. -/
theorem captureFillsOneSlot : Obligations.CaptureFillsOneSlot := by
  intro s c k f hi hc hf hk hcol hframe
  have hg : inGeometry c k = true := (inGeometry_iff c k).2 ⟨hcol, hframe⟩
  obtain ⟨a, ha, hlen, _⟩ := hi.store.store_of_chip hc
  obtain ⟨d, hd, hfl⟩ := hi.pending f hf
  obtain rfl : c = d := by simpa [hc] using hd
  have hs : s.openStore = some (c, a) := State.openStore_of_chip_of_store hc ha
  have ht : (capturedState c a k f s.wordOffset s).openStore = some (c, slotWrite c a k f) :=
    State.openStore_of_chip_of_store (by simpa using hc) (capturedState_store ..)
  refine ⟨capturedState c a k f s.wordOffset s, capture_inGeometry hc hf hk hg ha, ?_, ?_, fun k' hne => ?_⟩
  · exact lookupFrame_filled ht hg (slotRead_slotWrite_same hlen hg f)
  · rw [frameBytes_length, hfl]
  · exact lookupFrame_of_slotRead_eq hs ht fun hg' => slotRead_slotWrite_other a hg hg' hne f

/-! ## The outcomes of an FDRI word, an equation per case (spec/43_register_writes.md R184) -/

theorem appendWord_eq (v : Word) (s : State) :
    appendWord v s =
      { s with
        pos := s.pos + 4, crc := crcFold s.crc 2#5 v, regs := { s.regs with fdri := v }, asm := s.asm ++ [v] } := by
  rw [appendWord, State.payloadWrite_eq_of_ne_lout (by decide)]
  rfl

theorem countBurstWord_eq {s : State} (hb : 0 < s.budget) (hp : s.fdPhase = .payload) :
    countBurstWord s =
      { s with
        fdJ := s.fdJ + 1, budget := s.budget - 1, fdPhase := if s.budget = 1 then .autoCrc else .payload } := by
  have hlast : s.budget - 1 = 0 ↔ s.budget = 1 := by omega
  simp only [countBurstWord, hlast, hp]

section
variable {c : ChipDescriptor} {v : Word} {s s1 : State}

theorem FrameBegun.crc_regs (h : FrameBegun c s s1) : s1.crc = s.crc ∧ s1.regs = s.regs := by
  cases h <;> simp

/-- The word of a frame that has begun is read where the step started, with the accumulator and registers it had. -/
theorem FrameBegun.appendWord_eq (h : FrameBegun c s s1) :
    appendWord v s1 =
      { s1 with
        pos := s.pos + 4, crc := crcFold s.crc 2#5 v, regs := { s.regs with fdri := v }, asm := s1.asm ++ [v] } := by
  rw [Machine.appendWord_eq, h.pos, h.crc_regs.1, h.crc_regs.2]

section
variable (hc : s.chip = some c)
include hc

theorem exec_dataFdri_eq : exec (.dataFdri v) s = fdriStep c v s := by
  show execDataFdri v s = _
  rw [execDataFdri, hc]

/-- A failed capture of the previous frame ends the step before the word is read. -/
theorem CaptureFails.exec_dataFdri {k : EventKind} {i : Info} (h : CaptureFails s.pending s.pendFar s k i) (hj : 0 < s.fdJ)
    (h0 : s.fdJ % c.frameWordLength = 0) : exec (.dataFdri v) s = .next (s.raise k i s.pos) := by
  have hbegin : beginFrame s = .next (s.raise k i s.pos) := by
    rw [beginFrame, if_pos hj, h.capture_eq, thenStep_ended rfl]
  rw [exec_dataFdri_eq hc]
  show thenStep (if s.fdJ % c.frameWordLength = 0 then beginFrame s else .next s) _ = _
  rw [if_pos h0, hbegin, thenStep_ended rfl]

variable (hs : s.st = .waitingData)
include hs

theorem FrameBegun.begin_eq (h : FrameBegun c s s1) :
    (if s.fdJ % c.frameWordLength = 0 then beginFrame s else .next s) = .next s1 := by
  have hrun : s.st ≠ .failed := by simp [hs]
  cases h with
  | inside hj => exact if_neg hj
  | first h0 =>
    have hmod : s.fdJ % c.frameWordLength = 0 := by rw [h0, Nat.zero_mod]
    rw [if_pos hmod, beginFrame, if_neg (Nat.not_lt.2 h0.le), thenStep_next hrun]
  | later hj h0 f hf k hk hg t ht =>
    rw [if_pos h0, beginFrame, if_pos hj, capture_inGeometry hc hf hk hg ht, thenStep_next (by simpa using hrun)]
    simp only [capturedState_regs]

/-- With its frame begun, an FDRI word is appended; a whole frame ends; and the word is counted unless FAR's advance failed. -/
theorem FrameBegun.exec_dataFdri (h : FrameBegun c s s1) :
    exec (.dataFdri v) s =
      thenStep
        (.next (if s.fdJ % c.frameWordLength + 1 = c.frameWordLength then endFrame c (appendWord v s1) else appendWord v s1))
        fun s3 => .next (countBurstWord s3) := by
  have hrun : s1.st ≠ .failed := by simp [h.st_err.1, hs]
  rw [exec_dataFdri_eq hc]
  show thenStep (if s.fdJ % c.frameWordLength = 0 then beginFrame s else .next s) _ = _
  rw [h.begin_eq hc hs, thenStep_next hrun]

theorem FrameBegun.exec_word (h : FrameBegun c s s1) (hk : s.fdJ % c.frameWordLength + 1 ≠ c.frameWordLength) :
    exec (.dataFdri v) s = .next (countBurstWord (appendWord v s1)) := by
  rw [h.exec_dataFdri hc hs, if_neg hk, thenStep_next (by simp [h.st_err.1, hs])]

variable (h : FrameBegun c s s1) (hk : s.fdJ % c.frameWordLength + 1 = c.frameWordLength)
include h hk

theorem FrameBegun.exec_frame {w : Word} (hw : farInc s.params.frameStepEntry c s.regs.far = some w) :
    exec (.dataFdri v) s =
      .next (countBurstWord (State.setFar { appendWord v s1 with pending := some (appendWord v s1).asm } w)) := by
  have hend : endFrame c (appendWord v s1) = State.setFar { appendWord v s1 with pending := some (appendWord v s1).asm } w := by
    simp [endFrame, h.sameInputs.1, h.crc_regs.2, hw]
  rw [h.exec_dataFdri hc hs, if_pos hk, hend, thenStep_next (by simp [h.st_err.1, hs])]

theorem FrameBegun.exec_advanceFail (hw : farInc s.params.frameStepEntry c s.regs.far = none) :
    exec (.dataFdri v) s =
      .next (State.unrecognizedBlock { appendWord v s1 with pending := some (appendWord v s1).asm } s.regs.far s.pos) := by
  have hend : endFrame c (appendWord v s1) =
      State.unrecognizedBlock { appendWord v s1 with pending := some (appendWord v s1).asm } s.regs.far s.pos := by
    simp [endFrame, h.sameInputs.1, h.crc_regs.2, hw, State.wordOffset, h.pos]
  rw [h.exec_dataFdri hc hs, if_pos hk, hend, thenStep_ended rfl]
end
end

/-- Settles O20: the four errors of the capture, then the three outcomes of the word of a frame that has begun. -/
theorem fdriWordAssemblesAndCaptures : Obligations.FdriWordAssemblesAndCaptures := by
  intro s c v hs hc _ hbudget hphase j failed
  have hfailed : ∀ (u : State) (k : EventKind) (i : Info), u.st = .waitingData →
      exec (.dataFdri v) s = .next (u.raise k i s.pos) → ∃ info, exec (.dataFdri v) s = .next (failed u k k.code info) := by
    intro u k i hu h
    exact ⟨i, by rw [h, State.raise, hu]⟩
  refine ⟨fun hj h0 hf => ?_, fun f hj h0 hf hb => ?_, fun f k hj h0 hf hk hg => ?_, ?_⟩
  · exact hfailed s _ _ hs ((CaptureFails.frame c hc hf).exec_dataFdri hc hj h0)
  · exact hfailed s _ _ hs ((CaptureFails.block c hc f hf (slotOf_eq_none_of_blockThree hb)).exec_dataFdri hc hj h0)
  · rw [← inGeometry_iff, Bool.not_eq_true] at hg
    exact hfailed s _ _ hs ((CaptureFails.geometry c hc f hf k hk hg).exec_dataFdri hc hj h0)
  · intro s1 h1 s2 count
    have hbegun : FrameBegun c s s1 := by
      rcases h1 with ⟨hj, rfl⟩ | ⟨h0, rfl⟩ | ⟨hj, h0, f, k, t, hf, hk, hcol, hframe, ht, rfl⟩
      · exact .inside hj
      · exact .first h0
      · have hlater := FrameBegun.later hj h0 f hf k hk ((inGeometry_iff c k).2 ⟨hcol, hframe⟩) t ht
        rwa [capturedState_eq] at hlater
    have happend : appendWord v s1 = s2 := hbegun.appendWord_eq
    have hcount : ∀ u : State, s.SameCounts u → countBurstWord u = count u := fun u hu => by
      rw [countBurstWord_eq (hu.budget ▸ hbudget) (hu.fdPhase.trans hphase), hu.fdJ, hu.budget]
    obtain ⟨hb, htot, hj, hph⟩ := hbegun.sameCounts
    refine ⟨fun hk => ?_, fun w hk hw => ?_, fun hk hw => ?_⟩
    · rw [hbegun.exec_word hc hs hk, happend]
      exact congrArg Host.Outcome.next (hcount s2 ⟨hb, htot, hj, hph⟩)
    · rw [hbegun.exec_frame hc hs hk hw, happend]
      exact congrArg Host.Outcome.next (hcount (State.setFar { s2 with pending := some s2.asm } w) ⟨hb, htot, hj, hph⟩)
    · have hexec := hbegun.exec_advanceFail (v := v) hc hs hk hw
      rw [happend] at hexec
      exact hfailed _ _ _ (hbegun.st_err.1.trans hs) hexec

/-! ## The frame in progress (spec/10_state.md R32) -/

section
variable {c : ChipDescriptor} {s t : State}

theorem BurstInv.frameInProgress_length (hb : BurstInv c s) :
    (s.frameInProgress c).length = s.fdJ % c.frameWordLength := by
  rw [State.frameInProgress, List.length_take]
  by_cases h0 : s.fdJ % c.frameWordLength = 0
  · simp [h0]
  · rw [hb.asm h0, Nat.min_self]

/-- When a word is appended, `asm` holds the frame in progress and nothing else. -/
theorem FrameBegun.asm_eq (h : FrameBegun c s t) (hb : BurstInv c s) : t.asm = s.frameInProgress c := by
  cases h with
  | inside hj => exact (List.take_of_length_le (hb.asm hj).le).symm
  | first h0 => simp [State.frameInProgress, h0]
  | later _ h0 => simp [State.frameInProgress, h0]

/-- A step of an FDRI payload is an FDRI word. -/
theorem StepShape.burstShape (h : StepShape s t) (hs : s.st = .waitingData) (ha : s.actReg = some .fdri)
    (hp : s.fdPhase = .payload) (hstep : s.pins.step = true) (hc : s.chip = some c) :
    BurstShape c (s.input.readWord s.pos) s t := by
  cases h with
  | stay _ hlow => simp [hlow (.inr (.inr hs))] at hstep
  | start h | desync h | finish h | scan h | sync h | header h => cases h.symm.trans hs
  | autoCrc _ _ _ hp' => cases hp'.symm.trans hp
  | burst _ _ _ _ _ d hd hb =>
    obtain rfl : c = d := by simpa [hc] using hd
    exact hb
  | count _ _ r hr hf | hookFail _ _ r hr hf =>
    obtain rfl : r = .fdri := by simpa [hr] using ha
    exact absurd rfl hf

/-- Settles O21: the word is appended to the frame in progress, which becomes pending when that makes it whole. -/
theorem assemblyHoldsTheFrameInProgress : Obligations.AssemblyHoldsTheFrameInProgress := by
  intro s c hi hs ha hc
  have hb : BurstInv c s := hi.burstInv hs ha hc
  have hF : 0 < c.frameWordLength := hi.frameWordLength_pos hc
  have hlen := hb.frameInProgress_length
  refine ⟨hi.burst_le, hlen, hlen ▸ Nat.mod_lt _ hF, ?_⟩
  intro t ⟨hrst, hstep⟩ hp h ht ws
  have hws : ws.length = s.fdJ % c.frameWordLength + 1 := by rw [List.length_append, hlen, List.length_singleton]
  cases (StepShape.of_step h hrst).burstShape hs ha hp hstep hc with
  | captureFail | advanceFail => exact absurd rfl ht
  | word hbegun hk =>
    refine ⟨by simp [hbegun.sameCounts.fdJ], fun _ => ⟨?_, by simp [hbegun.pending]⟩, fun hwhole => ?_⟩
    · rw [State.frameInProgress, countBurstWord_fdJ, appendWord_fdJ, hbegun.sameCounts.fdJ, mod_succ_of_not_last hF hk,
        countBurstWord_asm, appendWord_asm, hbegun.asm_eq hb]
      exact List.take_of_length_le hws.le
    · exact absurd (hws.symm.trans hwhole) hk
  | frame hbegun hk =>
    refine ⟨by simp [hbegun.sameCounts.fdJ], fun hpart => ?_, fun _ => ⟨?_, ?_⟩⟩
    · exact absurd (hws.trans hk) hpart
    · have hcount : (s.fdJ + 1) % c.frameWordLength = 0 := mod_succ_of_last hk
      simp [State.frameInProgress, hbegun.sameCounts.fdJ, hcount]
    · rw [countBurstWord_pending, State.setFar_pending]
      simp only [appendWord_asm, hbegun.asm_eq hb]
      rfl
end

end Sys2Proof.Machine
end

section
/-! SUPPORT. The argument of an error (log entry 6), and the one slot a step can write: when a payload word captures, and
what its slot and every other then hold. -/

namespace Sys2Proof.Machine

/-! ## The header word (spec/60_exceptions.md R263) -/

/-- Every error record of the answer carries the header word `w`. -/
def RecordsHeader (w : Word) (a : Result) : Prop :=
  ∀ t, a = .next t → ∀ e, t.err = some e → e.info = .header w

theorem recordsHeader_illegalStep (w : Word) (s : State) : RecordsHeader w (illegalStep w s) := by
  rintro t ⟨⟩ e ⟨⟩
  rfl

section
variable {s : State} (hn : s.err = none)
include hn

theorem recordsHeader_of_err_none (w : Word) : RecordsHeader w (.next s) := by
  rintro t ⟨⟩ e he
  cases hn.symm.trans he

theorem recordsHeader_headerPayload (n : Nat) (w : Word) (off : Nat) :
    RecordsHeader w (.next (headerPayload n w off s)) := by
  have hraise : ∀ k, RecordsHeader w (.next (s.raise k (.header w) off)) := by
    rintro k t ⟨⟩ e ⟨⟩
    rfl
  unfold headerPayload
  split
  · exact recordsHeader_of_err_none hn w
  · rcases enterData_cases n w off s with ⟨_, e⟩ | ⟨_, ⟨_, _, e⟩ | ⟨_, _, _, _, e⟩ | ⟨_, _, _, _, e⟩ | ⟨_, e⟩⟩ <;> rw [e]
    · exact hraise _
    · exact hraise _
    · exact hraise _
    · exact recordsHeader_of_err_none (s := (s.beginBurst n).beginPayload n) hn w
    · exact recordsHeader_of_err_none (s := s.beginPayload n) hn w

theorem recordsHeader_t1Step (o : PacketOp) (r : Reg) (n : BitVec 11) : RecordsHeader (t1Header o r n) (t1Step o r n s) :=
  recordsHeader_headerPayload (s := { s.readWord with actReg := some r, actOp := o }) hn _ _ _

theorem recordsHeader_execT2 (op : BitVec 2) (n : BitVec 27) : RecordsHeader (t2Header op n) (execT2 op n s) := by
  unfold execT2
  split
  · exact recordsHeader_illegalStep _ s
  · exact recordsHeader_headerPayload (s := s.readWord) hn _ _ _

/-- A row read in `WaitingControl` records its own word. -/
theorem recordsHeader_exec (i : Instr) (hi : i.context = .control) : RecordsHeader (encode i) (exec i s) := by
  cases i with
  | noop n => exact recordsHeader_of_err_none (s := s.readWord) hn _
  | t1wCrc n | t1wFar n | t1wFdri n | t1wFdro n | t1wCmd n | t1wCtl n | t1wMask n | t1wStat n | t1wLout n | t1wCor n
  | t1wMfwr n | t1wFlr n | t1wKey n | t1wCbc n | t1wIdcode n => exact recordsHeader_t1Step hn .write _ n
  | t1rCrc n | t1rFar n | t1rFdri n | t1rFdro n | t1rCmd n | t1rCtl n | t1rMask n | t1rStat n | t1rLout n | t1rCor n
  | t1rMfwr n | t1rFlr n | t1rKey n | t1rCbc n | t1rIdcode n => exact recordsHeader_t1Step hn .read _ n
  | t2 op n => exact recordsHeader_execT2 hn op n
  | illegalT1Op11 | illegalT1rFields | illegalT1wFields | illegalType0 | illegalType3 | illegalType4 | illegalType5
  | illegalType6 | illegalType7 => exact recordsHeader_illegalStep _ s
  | _ => cases hi

theorem recordsHeader_classify (w : Word) : RecordsHeader w (exec (classify w) s) := by
  obtain ⟨_, hencode, hcontext⟩ := isRowOf_classify w
  have hexec := recordsHeader_exec hn (classify w) hcontext
  rwa [hencode] at hexec
end

/-! ## The block and the slot (spec/41_far_codec.md R134, R137) -/

theorem slotOf_eq_none_iff (c : ChipDescriptor) (far : Word) : slotOf c far = none ↔ (farDecode far).block = 3#2 := by
  rw [slotOf_eq_map, Option.map_eq_none_iff, regionOf_eq_none]

/-- Under either entry an increment fails in block 3 alone. -/
theorem block_of_farInc_eq_none {e : FrameStepEntry} {c : ChipDescriptor} {far : Word} (h : farInc e c far = none) :
    (farDecode far).block = 3#2 := by
  obtain ⟨hminor, hbit, _⟩ := farIncrementFailsOnlyOnBlockThree c far
  cases e with
  | minor => exact hminor.1 h
  | bit => exact (hbit.1 h).1

/-- The arguments that hold more than the kind: the block with its FAR word, and the slot (log entry 6). -/
theorem CaptureFails.info {frame : Option Frame} {far : Word} {s : State} {k : EventKind} {i : Info}
    (h : CaptureFails frame far s k i) :
    (k = .unrecognizedBlock → i = .block 3#2 far) ∧
    (k = .outOfGeometry → ∃ c key, s.chip = some c ∧ slotOf c far = some key ∧ i = .slot key) := by
  cases h with
  | chip | frame => simp
  | block c hc f hf hk => simp [(slotOf_eq_none_iff c far).1 hk]
  | geometry c hc f hf key hk hg => exact ⟨nofun, fun _ => ⟨c, key, hc, hk, rfl⟩⟩

/-- Settles O44: a header records the word it encodes to, a capture its own reason, and a failed advance its FAR word. -/
theorem errorRecordsCarryTheirArgument : Obligations.ErrorRecordsCarryTheirArgument := by
  refine ⟨fun w s t h hn => recordsHeader_classify hn w t h, fun s t e h hn he => ?_, fun v s t e h hs hn he => ?_⟩
  · have hcapture : capture s.pending s.regs.far s.wordOffset s = .next t := h
    rcases capture_next hcapture with ⟨k, i, hfail, rfl⟩ | ⟨c, f, k, a, _, _, _, _, _, rfl⟩
    · obtain rfl : _ = e := by injection he
      exact hfail.info
    · simp [hn] at he
  · cases hc : s.chip with
    | none => simp [exec, execDataFdri, hc] at h
    | some c =>
      rw [← hc]
      cases exec_fdri_shape hc hs h with
      | captureFail _ _ k i hfail =>
        obtain rfl : _ = e := by injection he
        obtain ⟨hblock, hslot⟩ := hfail.info
        exact ⟨fun hk => .inl ⟨rfl, hblock hk⟩, hslot⟩
      | word hbegun | frame hbegun => cases (hbegun.st_err.2.trans hn).symm.trans he
      | advanceFail hbegun _ hw =>
        obtain rfl : _ = e := by injection he
        refine ⟨fun _ => .inr ⟨by simp [hbegun.pos], ?_⟩, nofun⟩
        show Info.block (farDecode s.regs.far).block s.regs.far = _
        rw [block_of_farInc_eq_none hw]

/-! ## The slot a step writes (spec/44_frame_store.md R230, R244) -/

/-- A capture of `frame` at `far` in `s` writes `f` to the slot `k` of the chip `c`. -/
def CapturesInto (frame : Option Frame) (far : Word) (s : State) (c : ChipDescriptor) (k : SlotKey) (f : Frame) : Prop :=
  s.chip = some c ∧ frame = some f ∧ slotOf c far = some k ∧ inGeometry c k = true

theorem CaptureFails.not_capturesInto {frame : Option Frame} {far : Word} {s : State} {e : EventKind} {i : Info}
    (h : CaptureFails frame far s e i) (c : ChipDescriptor) (k : SlotKey) (f : Frame) : ¬ CapturesInto frame far s c k f := by
  rintro ⟨hc, hf, hk, hg⟩
  cases h with
  | chip hn => cases hn.symm.trans hc
  | frame _ _ hn => cases hn.symm.trans hf
  | block d hd _ _ hn =>
    obtain rfl : c = d := by simpa [hc] using hd
    cases hn.symm.trans hk
  | geometry d hd _ _ k' hk' hn =>
    obtain rfl : c = d := by simpa [hc] using hd
    obtain rfl : k = k' := by simpa [hk] using hk'
    cases hn.symm.trans hg

/-- Of all writes `P`, a step from the table `a` has made the one there is, or there is none and the table is as it was. -/
def WritesSlot (P : ChipDescriptor → SlotKey → Frame → Prop) (a : SlotTable) (t : State) : Prop :=
  (∃ c k f, P c k f ∧ t.store = some (slotWrite c a k f)) ∨ ((∀ c k f, ¬ P c k f) ∧ t.store = some a)

theorem WritesSlot.congr {P Q : ChipDescriptor → SlotKey → Frame → Prop} {a : SlotTable} {t u : State}
    (h : WritesSlot P a t) (hPQ : ∀ c k f, Q c k f ↔ P c k f) (hu : u.store = t.store) : WritesSlot Q a u := by
  simpa only [WritesSlot, hPQ, hu] using h

section
variable {s t : State} {c : ChipDescriptor} {a : SlotTable} {v : Word} {r : Reg}

theorem Dispatches.unique {code code' : Word} (h : Dispatches v s r code) (h' : Dispatches v s r code') : code = code' := by
  rcases h with ⟨rfl, rfl⟩ | ⟨rfl, rfl⟩
  · exact (h'.resolve_right (by simp)).2.symm
  · exact (h'.resolve_left (by simp)).2.symm

/-- The hook of a payload word writes a slot exactly where it dispatches MFWR and the capture does not fail. -/
theorem HookShape.writesSlot (h : HookShape v s r t) (hchip : s.chip = some c) (ha : s.store = some a) :
    WritesSlot (fun c k f => Dispatches v s r 2#32 ∧ CapturesInto s.pending s.regs.far s c k f) a t := by
  have hnone : ∀ {u : State}, ¬ Dispatches v s r 2#32 → u.store = s.store →
      WritesSlot (fun c k f => Dispatches v s r 2#32 ∧ CapturesInto s.pending s.regs.far s c k f) a u := fun hd hu =>
    .inr ⟨fun _ _ _ hw => hd hw.1, hu.trans ha⟩
  cases h with
  | same _ hcmd hfar => exact hnone (by simp [hcmd, hfar]) rfl
  | residual | residualFail | resolveFail => exact hnone (by simp) rfl
  | ignored code hd h2 => exact hnone (fun hd2 => h2 (hd.unique hd2)) rfl
  | clear hd => exact hnone (fun hd2 => absurd (hd.unique hd2) (by decide)) rfl
  | captured hd c hc f hf k hk hg a' ha' =>
    obtain rfl : a = a' := by simpa [ha] using ha'
    exact .inl ⟨c, k, f, ⟨hd, hc, hf, hk, hg⟩, capturedState_store ..⟩
  | captureFail hd e i he => exact .inr ⟨fun c k f hw => he.not_capturesInto c k f hw.2, ha⟩
  | resolved _ _ _ hn | resolvedMismatch _ _ _ hn | resolvedFail _ _ _ hn => cases hn.symm.trans hchip

theorem FrameBegun.writesSlot (h : FrameBegun c s t) (hchip : s.chip = some c) (ha : s.store = some a) :
    WritesSlot (fun d k f => (0 < s.fdJ ∧ s.fdJ % c.frameWordLength = 0) ∧ CapturesInto s.pending s.pendFar s d k f) a t := by
  cases h with
  | inside hj => exact .inr ⟨fun _ _ _ hw => hj hw.1.2, ha⟩
  | first h0 => exact .inr ⟨fun _ _ _ hw => hw.1.1.ne' h0, ha⟩
  | later hj h0 f hf k hk hg a' ha' =>
    obtain rfl : a = a' := by simpa [ha] using ha'
    exact .inl ⟨c, k, f, ⟨⟨hj, h0⟩, hchip, hf, hk, hg⟩, rfl⟩

/-- An FDRI word writes a slot exactly where it begins a later frame and the capture of the last one does not fail. -/
theorem BurstShape.writesSlot (h : BurstShape c v s t) (hchip : s.chip = some c) (ha : s.store = some a) :
    WritesSlot (fun d k f => (0 < s.fdJ ∧ s.fdJ % c.frameWordLength = 0) ∧ CapturesInto s.pending s.pendFar s d k f) a t := by
  cases h with
  | captureFail _ _ e i he => exact .inr ⟨fun c k f hw => he.not_capturesInto c k f hw.2, ha⟩
  | word h | frame h | advanceFail h => exact (h.writesSlot hchip ha).congr (fun _ _ _ => Iff.rfl) rfl

/-- A step of `s` captures `f` into the slot `k` of the chip `c`: at the first FDRI word of a later frame, a CMD word of
code 2, or a FAR word while CMD holds 2. -/
def State.Captures (s : State) (c : ChipDescriptor) (k : SlotKey) (f : Frame) : Prop :=
  s.st = .waitingData ∧ s.pins.step = true ∧ s.chip = some c ∧ s.pending = some f ∧
  k.column < c.columnCount.get k.region ∧ k.frame < c.frameCount.get k.region ∧
  ((s.actReg = some .fdri ∧ s.fdPhase = .payload ∧ 0 < s.fdJ ∧ s.fdJ % c.frameWordLength = 0 ∧
      slotOf c s.pendFar = some k) ∨
    (s.actReg = some .cmd ∧ s.input.readWord s.pos = 2#32 ∧ slotOf c s.regs.far = some k) ∨
    (s.actReg = some .far ∧ s.regs.cmd = 2#32 ∧ slotOf c (s.input.readWord s.pos) = some k))

section
variable (hs : s.st = .waitingData) (hp : s.pins.step = true)
include hs hp

theorem captures_iff_of_fdri (hr : s.actReg = some .fdri) (hph : s.fdPhase = .payload) (hc : s.chip = some c)
    (d : ChipDescriptor) (k : SlotKey) (f : Frame) :
    s.Captures d k f ↔ (0 < s.fdJ ∧ s.fdJ % c.frameWordLength = 0) ∧ CapturesInto s.pending s.pendFar s d k f := by
  simp only [State.Captures, CapturesInto, inGeometry_iff, hs, hp, hr, hph, hc]
  grind

/-- A word of another register captures exactly where the code it dispatches, after its store, is 2. -/
theorem captures_iff_of_ne_fdri (hr : s.actReg = some r) (hf : r ≠ .fdri) (d : ChipDescriptor) (k : SlotKey) (f : Frame) :
    s.Captures d k f ↔
      Dispatches (s.input.readWord s.pos) (s.payloadWrite r (s.input.readWord s.pos)) r 2#32 ∧
        CapturesInto (s.payloadWrite r (s.input.readWord s.pos)).pending
          (s.payloadWrite r (s.input.readWord s.pos)).regs.far (s.payloadWrite r (s.input.readWord s.pos)) d k f := by
  simp only [State.Captures, CapturesInto, Dispatches, inGeometry_iff, hs, hp, hr, State.payloadWrite_pending,
    State.payloadWrite_regs, State.payloadWrite_chip, RegFile.write_far, RegFile.write_cmd]
  grind
end

theorem Selected.store (h : Selected s t) : t.store = s.store := by cases h <;> rfl

theorem HeaderShape.store (h : HeaderShape s t) : t.store = s.store := by
  cases h with
  | stay h | fail h | enter h | burst h => exact h.store

theorem StepShape.writesSlot (h : StepShape s t) (hi : s.Inv) (hp : s.pins.step = true) (ha : s.store = some a) :
    WritesSlot s.Captures a t := by
  obtain ⟨c, hc⟩ := hi.store.chip_of_store ha
  have hnone : ∀ {u : State}, s.st ≠ .waitingData → u.store = s.store → WritesSlot s.Captures a u := fun hs hu =>
    .inr ⟨fun _ _ _ hw => hs hw.1, hu.trans ha⟩
  cases h with
  | stay _ hlow => exact hnone (fun hs => by simp [hlow (.inr (.inr hs))] at hp) rfl
  | start h | desync h | finish h | scan h | sync h => exact hnone (by simp [h]) rfl
  | header h _ ht => exact hnone (by simp [h]) ht.store
  | autoCrc h _ hr hph =>
    refine .inr ⟨fun d k f hw => ?_, ha⟩
    obtain ⟨_, _, _, _, _, _, ⟨_, hph', _⟩ | ⟨hr', _⟩ | ⟨hr', _⟩⟩ := hw
    · cases hph.symm.trans hph'
    · cases hr.symm.trans hr'
    · cases hr.symm.trans hr'
  | burst h _ hr _ hph d hd hb =>
    exact (hb.writesSlot hd ha).congr (captures_iff_of_fdri h hp hr hph hd) rfl
  | count h _ r hr hf _ hu | hookFail h _ r hr hf _ hu =>
    exact (hu.writesSlot hc ha).congr (captures_iff_of_ne_fdri h hp hr hf) rfl

theorem step_writesSlot (h : step s = .next t) (hi : s.Inv) (hr : s.pins.rst = false) (ha : s.store = some a) :
    WritesSlot s.Captures a t := by
  cases hp : s.pins.step with
  | true => exact (StepShape.of_step h hr).writesSlot hi hp ha
  | false =>
    have hlow : ∀ d k f, ¬ s.Captures d k f := fun _ _ _ hw => by simp [hw.2.1] at hp
    obtain ⟨_, ⟨hr', _⟩ | ⟨_, _, _, rfl⟩ | ⟨_, _, hp', _⟩ | ⟨_, _, _, rfl⟩⟩ := step_cases h
    · simp [hr] at hr'
    · exact .inr ⟨hlow, ha⟩
    · simp [hp] at hp'
    · exact .inr ⟨hlow, ha⟩

/-- A step captures into one slot at most. -/
theorem State.Captures.unique {c' : ChipDescriptor} {k k' : SlotKey} {f f' : Frame} (h : s.Captures c k f)
    (h' : s.Captures c' k' f') : c' = c ∧ k' = k ∧ f' = f := by
  obtain ⟨_, _, hc, hf, _, _, hk⟩ := h
  obtain ⟨_, _, hc', hf', _, _, hk'⟩ := h'
  obtain rfl : c' = c := by simpa [hc'] using hc
  obtain rfl : f' = f := by simpa [hf'] using hf
  refine ⟨rfl, ?_, rfl⟩
  grind

/-! ## The table after a write -/

section
variable {k : SlotKey} {f : Frame}

theorem slotWrite_getElem?_same (h : flatIndex c k < a.length) : (slotWrite c a k f)[flatIndex c k]? = some (some f) :=
  List.getElem?_set_self h

theorem slotWrite_getElem?_other {i : Nat} (h : i ≠ flatIndex c k) : (slotWrite c a k f)[i]? = a[i]? :=
  List.getElem?_set_ne h.symm

/-- A write fills its slot, and no other slot changes (R244). -/
theorem filledSlots_slotWrite (h : flatIndex c k < a.length) :
    filledSlots a ≤ filledSlots (slotWrite c a k f) ∧ filledSlots (slotWrite c a k f) ≤ filledSlots a + 1 := by
  rw [slotWrite, filledSlots, filledSlots, List.countP_set h, Option.isSome_some, if_pos rfl]
  split <;> omega
end

/-- Settles O46: the step has made the one write its capture is, or none. -/
theorem filledSlotsNeverDecrease : Obligations.FilledSlotsNeverDecrease := by
  intro s t a hi h hr ha word captures
  rcases step_writesSlot h hi hr ha with ⟨c, k, f, hw, ht⟩ | ⟨hn, ht⟩
  · obtain ⟨_, _, hc, _, hcol, hframe, _⟩ := id hw
    obtain ⟨a', ha', hlen, _⟩ := hi.store.store_of_chip hc
    obtain rfl : a = a' := by simpa [ha] using ha'
    have hlt : flatIndex c k < a.length := hlen ▸ flatIndex_lt ((inGeometry_iff c k).2 ⟨hcol, hframe⟩)
    refine ⟨_, ht, slotWrite_length .., fun c' k' f' hw' => ?_, fun hn => absurd hw (hn c k f), fun i g hg => ?_,
      filledSlots_slotWrite hlt⟩
    · obtain ⟨rfl, rfl, rfl⟩ := hw.unique hw'
      exact ⟨slotWrite_getElem?_same hlt, fun i => slotWrite_getElem?_other⟩
    · by_cases hik : i = flatIndex c k
      · exact ⟨f, hik ▸ slotWrite_getElem?_same hlt⟩
      · exact ⟨g, (slotWrite_getElem?_other hik).trans hg⟩
  · exact ⟨a, ht, rfl, fun c k f hw => absurd hw (hn c k f), fun _ => rfl, fun _ g hg => ⟨g, hg⟩, Nat.le_refl _,
      Nat.le_succ _⟩
end

end Sys2Proof.Machine
end

section
/-! SUPPORT. The registers and the events after each shape of a step. -/

namespace Sys2Proof.Machine

/-! ## Registers (spec/10_state.md R22, R23, spec/40_crc.md R117) -/

section
variable {s t u s1 : State} {r r' : Reg} {v : Word} {c : ChipDescriptor}

/-- A register is read from the register file, and the one at address 0 from the accumulator. -/
theorem State.readReg_of_eq (hregs : t.regs = s.regs) (hcrc : r = .crc → t.crc = s.crc) : t.readReg r = s.readReg r := by
  cases r with
  | crc => simp [hcrc rfl]
  | far | fdri | fdro | cmd | ctl | mask | stat | lout | cor | mfwr | flr | key | cbc | idcode =>
    simp only [State.readReg, hregs]

/-- A write of the register `r'` shows in no other register. -/
theorem State.readReg_of_write (hregs : t.regs = s.regs.write v r') (hne : r ≠ r') (hcrc : r ≠ .crc) :
    t.readReg r = s.readReg r :=
  (State.readReg_of_eq (s := s.storeReg r' v) hregs fun h => absurd h hcrc).trans (State.storeReg_read_other s r' r v hne)

theorem Selected.crc_regs (h : Selected s t) : t.crc = s.crc ∧ t.regs = s.regs := by cases h <;> exact ⟨rfl, rfl⟩

theorem HeaderShape.crc_regs (h : HeaderShape s t) : t.crc = s.crc ∧ t.regs = s.regs := by
  cases h with
  | stay h | fail h | enter h | burst h => exact h.crc_regs

theorem HookShape.regs (h : HookShape v s1 r u) : u.regs = s1.regs := by
  cases h <;> simp

/-- LOUT has no hook. -/
theorem HookShape.eq_of_lout (h : HookShape v s1 .lout u) : u = s1 := by
  cases h with
  | same => rfl
  | ignored _ hd | clear hd | captured hd | captureFail hd => rcases hd with ⟨hr, _⟩ | ⟨hr, _⟩ <;> cases hr

/-- The payload word of a register shows in that register and, but for LOUT, in the accumulator's. -/
theorem HookShape.readReg_other (h : HookShape v (s.payloadWrite r' v) r' u) (hne : r ≠ r') (hcrc : r = .crc → r' = .lout) :
    u.readReg r = s.readReg r := by
  by_cases h0 : r = .crc
  · obtain rfl := hcrc h0
    rw [h.eq_of_lout, h0, State.readReg_crc, State.payloadWrite_crc, crcUpdate_lout, State.readReg_crc]
  · exact State.readReg_of_write h.regs hne h0

theorem FrameBegun.regs_appendWord (h : FrameBegun c s t) : (appendWord v t).regs = s.regs.write v .fdri := by
  rw [appendWord_regs, h.crc_regs.2]

/-- An FDRI word shows in FDRI, in the accumulator and, at the end of a frame, in FAR. -/
theorem BurstShape.readReg_other (h : BurstShape c v s t) (hfdri : r ≠ .fdri) (hcrc : r ≠ .crc) (hfar : r ≠ .far) :
    t.readReg r = s.readReg r := by
  have happend : ∀ s1, FrameBegun c s s1 → (appendWord v s1).readReg r = s.readReg r := fun s1 h1 =>
    State.readReg_of_write h1.regs_appendWord hfdri hcrc
  have hsame : ∀ {u w : State}, u.regs = w.regs → u.readReg r = w.readReg r := fun hu =>
    State.readReg_of_eq hu fun h0 => absurd h0 hcrc
  cases h with
  | captureFail => exact hsame rfl
  | word h => exact (hsame rfl).trans (happend _ h)
  | advanceFail h => exact (hsame rfl).trans (happend _ h)
  | frame h _ w => exact (State.readReg_of_write (s := appendWord v _) rfl hfar hcrc).trans (happend _ h)

/-- Settles O47: outside a payload the registers are kept, and a payload word shows in the registers its shape says. -/
theorem registersChangeOnlyWhenAddressed : Obligations.RegistersChangeOnlyWhenAddressed := by
  intro s t r hstep hr hne
  have hshape := StepShape.of_step hstep hr
  clear hstep
  cases hshape with
  | stay | start | desync | finish | scan | sync => exact absurd (State.readReg_of_eq rfl fun _ => rfl) hne
  | header _ _ ht => exact absurd (State.readReg_of_eq ht.crc_regs.2 fun _ => ht.crc_regs.1) hne
  | autoCrc h _ ha =>
    by_cases hcrc : r = .crc
    · exact ⟨h, .inr (.inl ⟨hcrc, by simp [ha]⟩)⟩
    · exact (hne (State.readReg_of_eq rfl fun h0 => absurd h0 hcrc)).elim
  | burst h _ ha _ _ c _ ht =>
    refine ⟨h, ?_⟩
    by_contra hnot
    simp only [ha, Option.some.injEq, not_or, not_and_or, reduceCtorEq, not_false_eq_true, not_true_eq_false, or_false,
      ne_eq] at hnot
    obtain ⟨hfdri, hcrc, hfar⟩ := hnot
    exact hne (ht.readReg_other (Ne.symm hfdri) hcrc hfar)
  | count h _ r' ha _ _ hu | hookFail h _ r' ha _ _ hu =>
    refine ⟨h, ?_⟩
    by_contra hnot
    simp only [ha, Option.some.injEq, not_or, not_and_or, ne_eq, not_not] at hnot
    obtain ⟨hr', hcrc, _⟩ := hnot
    have hsame := hu.readReg_other (Ne.symm hr') fun h0 => hcrc.resolve_left (not_not.2 h0)
    exact hne (by simpa using hsame)
end

/-! ## Events and records (spec/60_exceptions.md R260, R263, R270, R271) -/

section
variable {s t u s1 : State} {r : Reg} {v : Word} {c : ChipDescriptor}

theorem State.EventInv.of_eq (h : s.EventInv) (hp : t.params = s.params) (hd : t.diag = s.diag) (he : t.err = s.err) :
    t.EventInv where
  diag_code := hd ▸ h.diag_code
  diag_kind := hd ▸ h.diag_kind
  diag_lenient := hp ▸ hd ▸ h.diag_lenient
  err_code := he ▸ h.err_code
  err_kind := he ▸ h.err_kind
  err_strict := hp ▸ he ▸ h.err_strict
  err_state := he ▸ h.err_state

/-- An appended event is a warning or CommandIgnored, and one strict mode would promote only outside it. -/
theorem State.EventInv.log (h : s.EventInv) {k : EventKind} {i : Info} {off : Nat}
    (hk : k = .geometryMismatch ∨ k = .crcResidualNonzero ∨ k = .duplicateFrameCapture ∨ k = .commandIgnored)
    (hstrict : s.params.strict = true → k ≠ .geometryMismatch ∧ k ≠ .crcResidualNonzero) : (s.log k i off).EventInv where
  diag_code := by simpa [or_imp, forall_and] using h.diag_code
  diag_kind := by
    rw [State.log_diag, List.forall_mem_append]
    exact ⟨h.diag_kind, by simpa using hk⟩
  diag_lenient hs := by
    rw [State.log_diag, List.forall_mem_append]
    exact ⟨h.diag_lenient hs, by simpa using hstrict hs⟩
  err_code := h.err_code
  err_kind := h.err_kind
  err_strict := h.err_strict
  err_state := h.err_state

/-- A record names a running state and no never-fatal kind, and a promoted warning only in strict mode. -/
theorem State.EventInv.raise (h : s.EventInv) (hrun : s.Running) {k : EventKind} {i : Info} {off : Nat}
    (hk : k ≠ .duplicateFrameCapture ∧ k ≠ .commandIgnored)
    (hstrict : k = .geometryMismatch ∨ k = .crcResidualNonzero → s.params.strict = true) : (s.raise k i off).EventInv where
  diag_code := h.diag_code
  diag_kind := h.diag_kind
  diag_lenient := h.diag_lenient
  err_code := by simp
  err_kind := by simpa using hk
  err_strict := by simpa using hstrict
  err_state := by simpa using hrun

theorem State.EventInv.raise_fatal (h : s.EventInv) (hrun : s.Running) {k : EventKind} {i : Info} {off : Nat}
    (hk : k ∉ [.geometryMismatch, .crcResidualNonzero, .duplicateFrameCapture, .commandIgnored]) :
    (s.raise k i off).EventInv := by
  simp only [List.mem_cons, List.not_mem_nil, or_false, not_or] at hk
  obtain ⟨hgeometry, hcrc, hduplicate, hignored⟩ := hk
  exact h.raise hrun ⟨hduplicate, hignored⟩ fun hw => absurd hw (not_or.2 ⟨hgeometry, hcrc⟩)

theorem State.EventInv.captured (h : s.EventInv) (c : ChipDescriptor) (a : SlotTable) (k : SlotKey) (f : Frame) (off : Nat) :
    (capturedState c a k f off s).EventInv := by
  unfold capturedState
  split
  · exact (h.log (k := .duplicateFrameCapture) (i := .slot k) (off := off) (by simp) (by simp)).of_eq rfl rfl rfl
  · exact h.of_eq rfl rfl rfl

/-- The four errors of a capture are fatal in either mode. -/
theorem CaptureFails.eventInv {frame : Option Frame} {far : Word} {k : EventKind} {i : Info} {off : Nat}
    (hf : CaptureFails frame far s k i) (h : s.EventInv) (hrun : s.Running) : (s.raise k i off).EventInv :=
  h.raise_fatal hrun (by rcases hf.kind with rfl | rfl | rfl | rfl <;> decide)

theorem Selected.eventInv (hs : Selected s t) (h : s.EventInv) : t.EventInv := by cases hs <;> exact h.of_eq rfl rfl rfl

theorem HeaderShape.eventInv (hs : HeaderShape s t) (h : s.EventInv) (hrun : s.Running) : t.EventInv := by
  cases hs with
  | stay hs => exact hs.eventInv h
  | enter hs | burst hs => exact (hs.eventInv h).of_eq rfl rfl rfl
  | fail hs k hk =>
    refine (hs.eventInv h).raise_fatal (by simpa only [State.Running, hs.st_err.1] using hrun) ?_
    rcases hk with rfl | rfl | rfl | rfl <;> decide

theorem HookShape.eventInv (hs : HookShape v s1 r u) (h : s1.EventInv) (hrun : s1.Running) : u.EventInv := by
  cases hs with
  | same => exact h
  | clear => exact h.of_eq rfl rfl rfl
  | residual _ hlenient => exact h.log (by simp) (by simp [hlenient])
  | residualFail _ hstrict => exact h.raise hrun (by simp) fun _ => hstrict
  | ignored => exact h.log (by simp) (by simp)
  | captured => exact h.captured ..
  | captureFail _ _ _ he => exact he.eventInv h hrun
  | resolved => exact h.of_eq rfl rfl rfl
  | resolvedMismatch c _ _ _ hlenient =>
    have h' : ({ s1 with chip := some c, store := some (allocate c) } : State).EventInv := h.of_eq rfl rfl rfl
    exact h'.log (by simp) (by simp [hlenient])
  | resolvedFail c _ _ _ hstrict =>
    have h' : ({ s1 with chip := some c, store := some (allocate c) } : State).EventInv := h.of_eq rfl rfl rfl
    exact h'.raise hrun (by simp) fun _ => hstrict
  | resolveFail k hk => exact h.raise_fatal hrun (by rcases hk with rfl | rfl <;> decide)

theorem FrameBegun.eventInv (hs : FrameBegun c s t) (h : s.EventInv) : t.EventInv := by
  cases hs with
  | inside => exact h
  | first => exact h.of_eq rfl rfl rfl
  | later _ _ f _ k _ _ a => exact (h.captured c a k f s.pos).of_eq rfl rfl rfl

theorem BurstShape.eventInv (hs : BurstShape c v s t) (h : s.EventInv) (hrun : s.Running) : t.EventInv := by
  cases hs with
  | captureFail _ _ k i he => exact he.eventInv h hrun
  | word hs | frame hs => exact (hs.eventInv h).of_eq rfl rfl rfl
  | @advanceFail s1 hs =>
    have h' : ({ appendWord v s1 with pending := some (appendWord v s1).asm } : State).EventInv :=
      (hs.eventInv h).of_eq rfl rfl rfl
    have hrun' : s1.Running := by simpa only [State.Running, hs.st_err.1] using hrun
    exact h'.raise_fatal hrun' (by decide)

theorem StepShape.eventInv (hs : StepShape s t) (h : s.EventInv) : t.EventInv := by
  cases hs with
  | stay => exact h
  | start | finish | scan | sync | autoCrc => exact h.of_eq rfl rfl rfl
  | desync hst => exact h.raise_fatal (.inl hst) (by decide)
  | header hst _ ht => exact ht.eventInv h (.inr (.inl hst))
  | burst hst _ _ _ _ _ _ ht => exact ht.eventInv h (.inr (.inr hst))
  | count hst _ _ _ _ _ hu => exact (hu.eventInv (h.of_eq rfl rfl rfl) (.inr (.inr hst))).of_eq rfl rfl rfl
  | hookFail hst _ _ _ _ _ hu => exact hu.eventInv (h.of_eq rfl rfl rfl) (.inr (.inr hst))

theorem State.resetWith_eventInv (p : Params) (m : Memory) (pins : Pins) : (State.resetWith p m pins).EventInv := by
  constructor <;> simp [State.resetWith]

/-- Settles O50: a reset has no event and no record, and every shape of a step appends or records as R270 to R275 say. -/
theorem eventsStayWellFormed : Obligations.EventsStayWellFormed := by
  refine ⟨State.resetWith_eventInv _ _ _, fun s t h hstep => ?_⟩
  rcases step_shape hstep with ⟨_, rfl⟩ | ⟨_, ht⟩
  · exact State.resetWith_eventInv _ _ _
  · exact ht.eventInv h
end

end Sys2Proof.Machine
end
